-- ==== Sys2Proof/Word.lean ====
section
/-! DEFINITION. The words of the machine (spec/00_scope.md R5, R6): bit 0 is the least significant bit. -/

namespace Sys2Proof

/-- A byte of memory or of an instruction. -/
abbrev Byte := BitVec 8

/-- A 64-bit register, address or pointer. -/
abbrev Word64 := BitVec 64

end Sys2Proof
end

