-- ==== Sys2Proof/Syntax.lean ====
section
/-! DEFINITION. The syntax of the one instruction of spec/opcode_table.json (R80), with every operand form of
spec/30_encoding.md. -/

namespace Sys2Proof

/-- The kind of code being executed, which decides the default address size (R70): 64-bit mode, or a code segment
whose D bit is set (`m32`) or clear (`m16`). -/
inductive CodeMode where
  | m16
  | m32
  | m64
  deriving DecidableEq, Repr

/-- The address size (R70). -/
inductive AddrSize where
  | a16
  | a32
  | a64
  deriving DecidableEq, Repr

/-- The six segment registers (R16). -/
inductive SegReg where
  | es
  | cs
  | ss
  | ds
  | fs
  | gs
  deriving DecidableEq, Repr

/-- A legacy prefix that VMXON admits (R65): the mandatory `F3`, a segment override, `67`. -/
inductive LegacyPrefix where
  | mandatory
  | segment (r : SegReg)
  | addressSize
  deriving DecidableEq, Repr

/-- The REX byte `0100WRXB` (R66). -/
structure Rex where
  w : Bool
  r : Bool
  x : Bool
  b : Bool
  deriving DecidableEq, Repr

/-- The eight base forms of 16-bit addressing (R68), in the order of `rm`. -/
inductive Base16 where
  | bxSi
  | bxDi
  | bpSi
  | bpDi
  | si
  | di
  | bp
  | bx
  deriving DecidableEq, Repr

/-- A displacement: absent (`mod` = 00), one byte (01) or the wide form of `w` bits (10) (R68, R69). -/
inductive Disp (w : Nat) where
  | absent
  | byte (d : BitVec 8)
  | wide (d : BitVec w)
  deriving DecidableEq, Repr

/-- The operand ModRM:r/m with its SIB byte and displacement (R62, R63, R68, R69, R74). Register numbers are the
fields of the bytes, three bits; REX.B and REX.X supply the fourth bit (R74). -/
inductive Operand where
  /-- `mod` = 11: a register, which VMXON refuses with #UD (R63, R81). -/
  | register (rm : BitVec 3)
  /-- 16-bit addressing, `mod` = 00, `rm` = 110: disp16 alone. -/
  | absolute16 (d : BitVec 16)
  /-- 16-bit addressing, all other forms. -/
  | based16 (base : Base16) (d : Disp 16)
  /-- `mod` = 00, `rm` = 101: disp32 alone, RIP-relative in 64-bit mode. -/
  | displacement32 (d : BitVec 32)
  /-- A base register, no SIB byte. -/
  | based (rm : BitVec 3) (d : Disp 32)
  /-- A SIB byte with a base register; `index` = 100 (with REX.X = 0) means no index. -/
  | sib (scale : BitVec 2) (index base : BitVec 3) (d : Disp 32)
  /-- A SIB byte with `mod` = 00 and `base` = 101: no base register, a disp32. -/
  | sibNoBase (scale : BitVec 2) (index : BitVec 3) (d : BitVec 32)
  deriving DecidableEq, Repr

/-- A decoded VMXON (R31, R75): the mode it was decoded in, its prefixes in their order, its REX byte, its operand.
Address size, segment, length and the terms of the effective address are functions of these. -/
structure VmxonForm where
  mode     : CodeMode
  prefixes : List LegacyPrefix
  rex      : Option Rex
  operand  : Operand
  deriving DecidableEq, Repr

/-- The instructions of spec/opcode_table.json. -/
inductive Instr where
  | vmxon (f : VmxonForm)
  deriving DecidableEq, Repr

/-- The mode an instruction was decoded in. -/
def Instr.mode : Instr → CodeMode
  | .vmxon f => f.mode

/-- Why a byte sequence is not a VMXON instruction (R72, R75). -/
inductive DecodeError where
  /-- The bytes end before the instruction does. -/
  | truncated
  /-- A prefix this spec refuses: `66`, `F2` or `F0` (R65). -/
  | prefixNotAdmitted (b : Byte)
  /-- Two segment overrides, two `67` or two `F3` (R65, D14). -/
  | prefixRepeated
  /-- No `F3` among the prefixes (R61, R64). -/
  | noMandatoryPrefix
  /-- The bytes after the prefixes are not `0F C7` with `/6` (R72, R75). -/
  | notVmxon
  deriving DecidableEq, Repr

end Sys2Proof
end

