-- ==== Sys2Proof/Machine/AddressSize.lean ====
section
/-! DEFINITION. The address size of an instruction (spec/30_encoding.md R70): shared by the decoder, the
well-formedness check and the effective address. -/

namespace Sys2Proof

/-- R70: in 64-bit mode 64 bits, or 32 with `67`; otherwise the default of the code segment, and `67` selects the
other one. -/
def addrSizeOf (mode : CodeMode) (has67 : Bool) : AddrSize :=
  match mode, has67 with
  | .m64, false => .a64
  | .m64, true  => .a32
  | .m32, false => .a32
  | .m32, true  => .a16
  | .m16, false => .a16
  | .m16, true  => .a32

/-- The address size of a decoded VMXON. -/
def VmxonForm.addrSize (f : VmxonForm) : AddrSize :=
  addrSizeOf f.mode (f.prefixes.contains .addressSize)

/-- The bits of an address size. -/
def AddrSize.bits : AddrSize → Nat
  | .a16 => 16
  | .a32 => 32
  | .a64 => 64

end Sys2Proof
end

