-- ==== Sys2Proof/WellFormed.lean ====
section
/-! DEFINITION. Which decoded instructions have an encoding (spec/30_encoding.md R64 to R74). -/

namespace Sys2Proof

/-- A prefix is a segment override. -/
def LegacyPrefix.isSegment : LegacyPrefix → Bool
  | .segment _ => true
  | .mandatory => false
  | .addressSize => false

/-- R65: "The admitted prefix set is exactly: `F3`, at most one segment override, at most one `67`". -/
def prefixesWf (ps : List LegacyPrefix) : Bool :=
  ps.count .mandatory == 1 && decide (ps.countP LegacyPrefix.isSegment ≤ 1) && decide (ps.count .addressSize ≤ 1)

/-- R64: a REX byte stands in 64-bit mode only. -/
def rexWf (mode : CodeMode) (rex : Option Rex) : Bool :=
  rex.isNone || mode == .m64

/-- R68, R69: the operand form is one the address size has, and is not one whose bits mean another form. -/
def Operand.wf (size : AddrSize) : Operand → Bool
  | .register _        => true
  | .absolute16 _      => size == .a16
  | .based16 b d       => size == .a16 && !(b == .bp && d == .absent)
  | .displacement32 _  => !(size == .a16)
  | .based rm d        => !(size == .a16) && !(rm == 4#3) && !(rm == 5#3 && d == .absent)
  | .sib _ _ base d    => !(size == .a16) && !(base == 5#3 && d == .absent)
  | .sibNoBase _ _ _   => !(size == .a16)

/-- A decoded VMXON that some byte sequence encodes. -/
def VmxonForm.wf (f : VmxonForm) : Bool :=
  prefixesWf f.prefixes && rexWf f.mode f.rex && f.operand.wf f.addrSize

/-- A well-formed instruction. -/
def Instr.wf : Instr → Bool
  | .vmxon f => f.wf

end Sys2Proof
end

