-- ==== Sys2Proof/Decode.lean ====
section
/-! DEFINITION. The decoder (spec/30_encoding.md sections 1 to 5), total on any bytes, and after it the encoder. -/

namespace Sys2Proof

/-- The longest admitted VMXON, in bytes (R67). -/
def maxLength : Nat := 12

/-- What a byte is as a legacy prefix of VMXON (R65). -/
def legacyPrefix? (b : Byte) : Option LegacyPrefix :=
  if b = 0xF3#8 then some .mandatory
  else if b = 0x26#8 then some (.segment .es)
  else if b = 0x2E#8 then some (.segment .cs)
  else if b = 0x36#8 then some (.segment .ss)
  else if b = 0x3E#8 then some (.segment .ds)
  else if b = 0x64#8 then some (.segment .fs)
  else if b = 0x65#8 then some (.segment .gs)
  else if b = 0x67#8 then some .addressSize
  else none

/-- R65: the prefixes this spec refuses. -/
def refusedPrefix (b : Byte) : Bool :=
  b == 0x66#8 || b == 0xF2#8 || b == 0xF0#8

/-- R64: the legacy prefixes at the front, in any order, and the bytes after them. -/
def takePrefixes : List Byte → Except DecodeError (List LegacyPrefix × List Byte)
  | [] => .error .truncated
  | b :: bs =>
    if refusedPrefix b then .error (.prefixNotAdmitted b)
    else match legacyPrefix? b with
      | none => .ok ([], b :: bs)
      | some p =>
        match takePrefixes bs with
        | .ok (ps, rest) => .ok (p :: ps, rest)
        | .error e => .error e

/-- R65, D14: the admitted prefix set. -/
def checkPrefixes (ps : List LegacyPrefix) : Except DecodeError Unit :=
  if ps.count .mandatory = 0 then .error .noMandatoryPrefix
  else if prefixesWf ps then .ok ()
  else .error .prefixRepeated

/-- R66: the REX byte `0100WRXB`. -/
def rex? (b : Byte) : Option Rex :=
  if b.extractLsb' 4 4 = 4#4 then
    some { w := b.getLsbD 3, r := b.getLsbD 2, x := b.getLsbD 1, b := b.getLsbD 0 }
  else none

/-- R64: in 64-bit mode only, at most one REX byte right before the opcode. -/
def takeRex (mode : CodeMode) (bs : List Byte) : Option Rex × List Byte :=
  match mode, bs with
  | .m64, b :: rest =>
    match rex? b with
    | some r => (some r, rest)
    | none => (none, b :: rest)
  | _, bs => (none, bs)

/-- A 16-bit displacement, little-endian (R41). -/
def take16 : List Byte → Except DecodeError (BitVec 16 × List Byte)
  | b0 :: b1 :: rest => .ok (b1 ++ b0, rest)
  | _ => .error .truncated

/-- A 32-bit displacement, little-endian (R41). -/
def take32 : List Byte → Except DecodeError (BitVec 32 × List Byte)
  | b0 :: b1 :: b2 :: b3 :: rest => .ok (b3 ++ b2 ++ b1 ++ b0, rest)
  | _ => .error .truncated

/-- The displacement `mod` calls for (R68, R69), where `wide` reads the one of `mod` = 10. -/
def takeDisp {w : Nat} (wide : List Byte → Except DecodeError (BitVec w × List Byte)) (mod : BitVec 2)
    (bs : List Byte) : Except DecodeError (Disp w × List Byte) :=
  if mod = 0#2 then .ok (.absent, bs)
  else if mod = 1#2 then
    match bs with
    | b :: rest => .ok (.byte b, rest)
    | [] => .error .truncated
  else
    match wide bs with
    | .ok (d, rest) => .ok (.wide d, rest)
    | .error e => .error e

/-- R68: the base form of an `rm` field. -/
def base16OfRm (rm : BitVec 3) : Base16 :=
  if rm = 0#3 then .bxSi
  else if rm = 1#3 then .bxDi
  else if rm = 2#3 then .bpSi
  else if rm = 3#3 then .bpDi
  else if rm = 4#3 then .si
  else if rm = 5#3 then .di
  else if rm = 6#3 then .bp
  else .bx

/-- R68: the memory operand of 16-bit addressing. -/
def takeOperand16 (mod : BitVec 2) (rm : BitVec 3) (bs : List Byte) : Except DecodeError (Operand × List Byte) :=
  if mod = 0#2 ∧ rm = 6#3 then
    match take16 bs with
    | .ok (d, rest) => .ok (.absolute16 d, rest)
    | .error e => .error e
  else
    match takeDisp take16 mod bs with
    | .ok (d, rest) => .ok (.based16 (base16OfRm rm) d, rest)
    | .error e => .error e

/-- R69: the memory operand behind a SIB byte. -/
def takeSib (mod : BitVec 2) (bs : List Byte) : Except DecodeError (Operand × List Byte) :=
  match bs with
  | [] => .error .truncated
  | s :: bs =>
    if mod = 0#2 ∧ s.extractLsb' 0 3 = 5#3 then
      match take32 bs with
      | .ok (d, rest) => .ok (.sibNoBase (s.extractLsb' 6 2) (s.extractLsb' 3 3) d, rest)
      | .error e => .error e
    else
      match takeDisp take32 mod bs with
      | .ok (d, rest) => .ok (.sib (s.extractLsb' 6 2) (s.extractLsb' 3 3) (s.extractLsb' 0 3) d, rest)
      | .error e => .error e

/-- R69, R74: the memory operand of 32-bit and 64-bit addressing. -/
def takeOperand32 (mod : BitVec 2) (rm : BitVec 3) (bs : List Byte) : Except DecodeError (Operand × List Byte) :=
  if rm = 4#3 then takeSib mod bs
  else if mod = 0#2 ∧ rm = 5#3 then
    match take32 bs with
    | .ok (d, rest) => .ok (.displacement32 d, rest)
    | .error e => .error e
  else
    match takeDisp take32 mod bs with
    | .ok (d, rest) => .ok (.based rm d, rest)
    | .error e => .error e

/-- R62, R63: the operand that `mod` and `rm` select. -/
def takeOperand (size : AddrSize) (mod : BitVec 2) (rm : BitVec 3) (bs : List Byte) :
    Except DecodeError (Operand × List Byte) :=
  if mod = 3#2 then .ok (.register rm, bs)
  else match size with
    | .a16 => takeOperand16 mod rm bs
    | .a32 => takeOperand32 mod rm bs
    | .a64 => takeOperand32 mod rm bs

/-- R60, R62: the opcode bytes `0F C7`, the ModRM byte with `reg` = 6, and the operand. -/
def takeOpcode (size : AddrSize) (bs : List Byte) : Except DecodeError (Operand × List Byte) :=
  match bs with
  | o1 :: o2 :: m :: rest =>
    if o1 = 0x0F#8 ∧ o2 = 0xC7#8 ∧ m.extractLsb' 3 3 = 6#3 then
      takeOperand size (m.extractLsb' 6 2) (m.extractLsb' 0 3) rest
    else .error .notVmxon
  | [o1, o2] => if o1 = 0x0F#8 ∧ o2 = 0xC7#8 then .error .truncated else .error .notVmxon
  | [o1] => if o1 = 0x0F#8 then .error .truncated else .error .notVmxon
  | [] => .error .truncated

/-- R75: the instruction at the front of a byte sequence, and the bytes after it. -/
def decode (mode : CodeMode) (bs : List Byte) : Except DecodeError (Instr × List Byte) :=
  match takePrefixes bs with
  | .error e => .error e
  | .ok (ps, bs1) =>
    match checkPrefixes ps with
    | .error e => .error e
    | .ok () =>
      match takeOpcode (addrSizeOf mode (ps.contains .addressSize)) (takeRex mode bs1).2 with
      | .error e => .error e
      | .ok (op, rest) =>
        .ok (.vmxon { mode := mode, prefixes := ps, rex := (takeRex mode bs1).1, operand := op }, rest)

/-- The byte of a legacy prefix (R65). -/
def LegacyPrefix.toByte : LegacyPrefix → Byte
  | .mandatory    => 0xF3#8
  | .segment .es  => 0x26#8
  | .segment .cs  => 0x2E#8
  | .segment .ss  => 0x36#8
  | .segment .ds  => 0x3E#8
  | .segment .fs  => 0x64#8
  | .segment .gs  => 0x65#8
  | .addressSize  => 0x67#8

/-- The REX byte (R66). -/
def Rex.toByte (r : Rex) : Byte :=
  4#4 ++ BitVec.ofBool r.w ++ BitVec.ofBool r.r ++ BitVec.ofBool r.x ++ BitVec.ofBool r.b

/-- The `rm` field of a 16-bit base form (R68). -/
def Base16.toRm : Base16 → BitVec 3
  | .bxSi => 0#3
  | .bxDi => 1#3
  | .bpSi => 2#3
  | .bpDi => 3#3
  | .si   => 4#3
  | .di   => 5#3
  | .bp   => 6#3
  | .bx   => 7#3

/-- The bytes of a 16-bit displacement. -/
def bytes16 (d : BitVec 16) : List Byte := [d.extractLsb' 0 8, d.extractLsb' 8 8]

/-- The bytes of a 32-bit displacement. -/
def bytes32 (d : BitVec 32) : List Byte :=
  [d.extractLsb' 0 8, d.extractLsb' 8 8, d.extractLsb' 16 8, d.extractLsb' 24 8]

/-- The `mod` field a displacement is encoded with (R68, R69). -/
def Disp.toMod {w : Nat} : Disp w → BitVec 2
  | .absent => 0#2
  | .byte _ => 1#2
  | .wide _ => 2#2

/-- The bytes of a displacement. -/
def Disp.toBytes {w : Nat} (wide : BitVec w → List Byte) : Disp w → List Byte
  | .absent => []
  | .byte b => [b]
  | .wide d => wide d

/-- The ModRM byte with `reg` = 6 (R62). -/
def modRm (mod : BitVec 2) (rm : BitVec 3) : Byte := mod ++ 6#3 ++ rm

/-- The SIB byte (R69). -/
def sibByte (scale : BitVec 2) (index base : BitVec 3) : Byte := scale ++ index ++ base

/-- The ModRM byte, SIB byte and displacement of an operand. -/
def Operand.toBytes : Operand → List Byte
  | .register rm             => [modRm 3#2 rm]
  | .absolute16 d            => modRm 0#2 6#3 :: bytes16 d
  | .based16 b d             => modRm d.toMod b.toRm :: d.toBytes bytes16
  | .displacement32 d        => modRm 0#2 5#3 :: bytes32 d
  | .based rm d              => modRm d.toMod rm :: d.toBytes bytes32
  | .sib scale index base d  => modRm d.toMod 4#3 :: sibByte scale index base :: d.toBytes bytes32
  | .sibNoBase scale index d => modRm 0#2 4#3 :: sibByte scale index 5#3 :: bytes32 d

/-- The bytes of a decoded VMXON (R60, R64). -/
def VmxonForm.toBytes (f : VmxonForm) : List Byte :=
  f.prefixes.map LegacyPrefix.toByte ++ (f.rex.toList.map Rex.toByte ++ (0x0F#8 :: 0xC7#8 :: f.operand.toBytes))

/-- The bytes of an instruction. -/
def encode : Instr → List Byte
  | .vmxon f => f.toBytes

/-- The bytes of a displacement field, in number (R67: 0, 1, 2 or 4). -/
def Disp.size {w : Nat} (wide : Nat) : Disp w → Nat
  | .absent => 0
  | .byte _ => 1
  | .wide _ => wide

/-- R67: 1 if the operand has a SIB byte. -/
def Operand.sibSize : Operand → Nat
  | .register _       => 0
  | .absolute16 _     => 0
  | .based16 _ _      => 0
  | .displacement32 _ => 0
  | .based _ _        => 0
  | .sib _ _ _ _      => 1
  | .sibNoBase _ _ _  => 1

/-- R67: the displacement's size in bytes. -/
def Operand.dispSize : Operand → Nat
  | .register _       => 0
  | .absolute16 _     => 2
  | .based16 _ d      => d.size 2
  | .displacement32 _ => 4
  | .based _ d        => d.size 4
  | .sib _ _ _ d      => d.size 4
  | .sibNoBase _ _ _  => 4

/-- R67: `len = p + r + 3 + sib + d`. -/
def VmxonForm.length (f : VmxonForm) : Nat :=
  f.prefixes.length + f.rex.toList.length + 3 + f.operand.sibSize + f.operand.dispSize

/-- The length of an instruction in bytes. -/
def Instr.length : Instr → Nat
  | .vmxon f => f.length

/-- `n` bytes of the number `w`, its bits 7..0 first. -/
def tableBytes : Nat → Nat → List Byte
  | 0, _ => []
  | n + 1, w => BitVec.ofNat 8 w :: tableBytes n (w / 256)

/-- The instruction whose bits are `w`, numbered as spec/opcode_table.json numbers them; the bits from `nbits` on are
0. Decoded as code of the mode the machine is in after reset (log 19). -/
def decodeTableWord (nbits w : Nat) : Option Instr :=
  match decode .m16 (tableBytes maxLength (w % 2 ^ nbits)) with
  | .ok (i, _) => some i
  | .error _ => none

end Sys2Proof
end

