-- ==== Sys2Proof/Machine/Flags.lean ====
section
/-! DEFINITION. The six status flags and the three patterns VMXON writes (spec/10_state.md R12, spec/40_vmxon.md R105
to R107, R112). -/

namespace Sys2Proof.Machine

/-- Values for the six status flags (R12). -/
structure StatusFlags where
  cf : Bool
  pf : Bool
  af : Bool
  zf : Bool
  sf : Bool
  of : Bool
  deriving DecidableEq, Repr

/-- One bit at its place in the flags register. -/
def flagBit (value : Bool) (place : Nat) : Word64 := if value then 1#64 <<< place else 0#64

/-- R12: CF is bit 0, PF 2, AF 4, ZF 6, SF 7, OF 11. -/
def StatusFlags.bits (f : StatusFlags) : Word64 :=
  flagBit f.cf 0 ||| flagBit f.pf 2 ||| flagBit f.af 4 ||| flagBit f.zf 6 ||| flagBit f.sf 7 ||| flagBit f.of 11

/-- The places of the six status flags (R12). -/
def statusMask : Word64 := 0x8D5#64

/-- The flags register with the six status flags written and every other bit kept (R105 to R107). -/
def writeStatus (f : StatusFlags) (rflags : Word64) : Word64 := (rflags &&& ~~~statusMask) ||| f.bits

/-- R105: VMsucceed. -/
def succeedFlags : StatusFlags := { cf := false, pf := false, af := false, zf := false, sf := false, of := false }

/-- R106: VMfailInvalid. -/
def failInvalidFlags : StatusFlags := { cf := true, pf := false, af := false, zf := false, sf := false, of := false }

/-- R107: VMfailValid. -/
def failValidFlags : StatusFlags := { cf := false, pf := false, af := false, zf := true, sf := false, of := false }

end Sys2Proof.Machine
end

