-- ==== Sys2Proof/Config.lean ====
section
/-! DEFINITION. What the implementation fixes (spec/00_scope.md R4) and the free values. -/

namespace Sys2Proof

/-- `LINEAR_ADDR_WIDTH` (R4, R45): "48 or 57". -/
inductive LinearWidth where
  | w48
  | w57
  deriving DecidableEq, Repr, Inhabited

/-- What an access asks of the translation: VMXON's operand is a data read (R46); the fetch of an instruction is
the model's own (log 10). -/
inductive Access where
  | read
  | fetch
  deriving DecidableEq, Repr, Inhabited

/-- What `Translate` (R46) says of one linear page: the number of the 4096-byte physical frame behind it, or the
code of the page fault. R124 gives the code no format and no width: 32 bits is the model's choice (log 32). -/
inductive PageResult where
  | frame (number : Nat)
  | fault (code : BitVec 32)
  deriving DecidableEq, Repr, Inhabited

/-- One linear page (its number is the linear address divided by 4096) for one kind of access. -/
structure PageEntry where
  page   : Nat
  access : Access
  result : PageResult
  deriving DecidableEq, Repr, Inhabited

/-- A table of 4096-byte pages. A page that is not listed is mapped to itself where `identity` holds and the address
lies below the physical-address width, and otherwise raises a page fault with `faultCode`. -/
structure PageTable where
  entries   : List PageEntry
  identity  : Bool
  faultCode : BitVec 32
  deriving DecidableEq, Repr, Inhabited

/-- The parameter `Translate` of R4 and R46, "a function the model takes as given" (log 6): a table written out, or
the function with this number, of which nothing is known (`translateFunction`). -/
inductive Translation where
  | pages (table : PageTable)
  | function (number : Nat)
  deriving DecidableEq, Repr, Inhabited

/-- The input `SegCheck` of R31 and R44 (D26). R44 fixes what it answers by three properties of the segment and leaves
open how one of them is found: which offsets lie inside the limit (granularity, expand-down, wrapping; log 14).
`lastOffset` takes the limit of R16 for the last offset inside; `function` is the function with this number, of which
nothing is known (`limitFunction`). -/
inductive SegCheckLimit where
  | lastOffset
  | function (number : Nat)
  deriving DecidableEq, Repr, Inhabited

/-- The parameter `Cr0Cr4Supported` of R4: "predicate on two 64-bit values", as plain data (log 5). `fixedBits` is the
default of R87; the other two combine predicates, and every predicate on two 64-bit values is one of these
(Laws/CrPredicate.lean). -/
inductive CrPredicate where
  /-- IA32_VMX_CR0_FIXED0 and FIXED1, IA32_VMX_CR4_FIXED0 and FIXED1 (R87): a bit that is 1 in FIXED0 must be 1, a bit
  that is 0 in FIXED1 must be 0. -/
  | fixedBits (cr0Fixed0 cr0Fixed1 cr4Fixed0 cr4Fixed1 : Word64)
  | negated (p : CrPredicate)
  | both (p q : CrPredicate)
  deriving DecidableEq, Repr, Inhabited

/-- A range of physical addresses. -/
structure PhysRange where
  base : Nat
  size : Nat
  deriving DecidableEq, Repr, Inhabited

/-- The implementation parameters of R4 and decisions D15 and D26, each under the name of the spec. -/
structure Config where
  /-- `PHYS_ADDR_WIDTH`. -/
  physAddrWidth   : Nat
  /-- `VMX_BASIC_48`: IA32_VMX_BASIC[48] (R28). -/
  vmxBasic48      : Bool
  /-- `VMCS_REVISION_ID`: the VMCS revision identifier supported by the processor (R28). -/
  vmcsRevisionId  : BitVec 31
  /-- `Cr0Cr4Supported` (R87). -/
  cr0Cr4Supported : CrPredicate
  /-- `PT_SUPPORTED`. -/
  ptSupported     : Bool
  /-- `PT_ALLOWED_IN_VMX`: reported by IA32_VMX_MISC (R29). -/
  ptAllowedInVmx  : Bool
  /-- `SMX_SUPPORTED` (R24). -/
  smxSupported    : Bool
  /-- `LINEAR_ADDR_WIDTH` (R45). -/
  linearAddrWidth : LinearWidth
  /-- `Translate` (R46). -/
  translate       : Translation
  /-- `PhysPopulated` (R51, D15): where the platform has memory. -/
  physPopulated   : List PhysRange
  /-- `SegCheck` (R31, R44, D26): what of it is open. -/
  segCheck        : SegCheckLimit
  deriving DecidableEq, Repr, Inhabited

/-- The physical frame of a page result lies below the physical-address width (R46: `Translate` "returns a physical
address below `2^PHYS_ADDR_WIDTH`"). -/
def PageResult.inWidth (width : Nat) : PageResult → Bool
  | .frame n => decide ((n + 1) * 4096 ≤ 2 ^ width)
  | .fault _ => true

/-- Every frame a table lists is below the width; a `function` answers below it by construction. -/
def Translation.inWidth (width : Nat) : Translation → Bool
  | .pages t    => t.entries.all (fun e => e.result.inWidth width)
  | .function _ => true

/-- The configuration is one R4 and R46 allow: `PHYS_ADDR_WIDTH` is 1 to 64, every listed frame is below it. -/
def Config.legal (c : Config) : Bool :=
  decide (1 ≤ c.physAddrWidth) && decide (c.physAddrWidth ≤ 64) && c.translate.inWidth c.physAddrWidth

/-- A legal configuration. The default only shows that there is one; nothing takes it for the chip's. -/
structure LegalConfig where
  cfg   : Config := { physAddrWidth := 46, vmxBasic48 := false, vmcsRevisionId := 0,
                      cr0Cr4Supported := .fixedBits 0 0 0 0, ptSupported := false, ptAllowedInVmx := false,
                      smxSupported := false, linearAddrWidth := .w48, translate := .function 0, physPopulated := [],
                      segCheck := .function 0 }
  legal : cfg.legal = true := by decide
  deriving Inhabited

/-- The configuration of the chip: some legal one, and nothing says which (R4: "no rule of this spec fixes a number
for any of them"; log 4). -/
opaque Config.chip : LegalConfig

/-- The free bytes: the value of the n-th byte drawn where the spec says "any value (a draw)" (R47, R50; log 7, 8).
No body, so nothing can be proved of a value. -/
opaque Config.freeByte : Nat → Byte

/-- The byte that memory holds at a physical address nothing was written to (R30: "Reset: unspecified"; log 7). No body,
so nothing can be proved of a value; being one function, it gives the same byte each time. -/
opaque Config.initialByte : Nat → Byte

end Sys2Proof
end

