-- ==== Sys2Proof/Machine/State.lean ====
section
/-! DEFINITION. The state of one logical processor (spec/10_state.md), the reasons a step stops, and reset (R33). -/

namespace Sys2Proof.Machine

/-- R18: `Off` is "not in VMX operation". -/
inductive VmxMode where
  | off
  | root
  | nonRoot
  deriving DecidableEq, Repr

/-- R16: what the spec gives of a segment register. R16 gives `limit` and `base` no width and no format: that the limit
has 32 bits and the base 64 is the model's choice (log 34), and that the limit is the last byte offset inside the
segment is one reading of it, `SegCheckLimit.lastOffset` (log 14). -/
structure Segment where
  base     : Word64
  limit    : BitVec 32
  unusable : Bool
  execOnly : Bool
  deriving DecidableEq, Repr

/-- R16: the six segment registers. -/
structure SegmentFile where
  es : Segment
  cs : Segment
  ss : Segment
  ds : Segment
  fs : Segment
  gs : Segment
  deriving DecidableEq, Repr

/-- R30: physical memory, the bytes the model knows, by rising physical address. Of an unlisted address it knows no
value (log 7). -/
abbrev Memory := List Host.Cell

/-- A page fault: its code and the linear address that faulted (R7, R124). The width of the code is the model's choice
(log 32). -/
structure PageFault where
  code   : BitVec 32
  linear : Word64
  deriving DecidableEq, Repr

/-- Why the machine stops. Every constructor is an outcome of R8 that the spec makes terminal with the state
unchanged (R127, R131); execVmxon alone raises them. That an error code has 32 bits is the model's choice (log 32).
Safe: the chip goes on to a handler or to the host of the VM exit, which no source describes. -/
inductive Fault where
  /-- #UD, invalid opcode (R121). Safe. -/
  | ud
  /-- #GP with its error code, always 0 (R122). Safe. -/
  | gp (errorCode : BitVec 32)
  /-- #SS with its error code, always 0 (R123). Safe. -/
  | ss (errorCode : BitVec 32)
  /-- #PF with the code that `Translate` gave and the faulting linear address (R124). Safe. -/
  | pf (faultCode : BitVec 32) (linear : Word64)
  /-- `VMexit`: VMXON in VMX non-root operation (R109, R127). Safe. -/
  | vmExit
  deriving DecidableEq, Repr

/-- Why there is no step. -/
inductive Refusal where
  /-- An instruction with no meaning; exec raises it, for none of them. Safe. -/
  | notModelled (mnemonic : String)
  /-- The bytes at the instruction pointer are not a VMXON instruction (R65, R72, R75); step raises it. Safe. -/
  | notAnInstruction (e : DecodeError)
  /-- The model holds no byte where the instruction goes on: nothing there, a fetch fault, or the processor's own
  region (R31, R130, R50; log 10); step raises it. Safe. -/
  | noInstructionBytes
  /-- A software store to the VMXON region (R50); softwareStore, which is no step, raises it. Safe. -/
  | storeToVmxonRegion
  /-- A software store at or above 2^PHYS_ADDR_WIDTH, where the map of R30 ends (log 31); softwareStore, which is no
  step, raises it. Safe. -/
  | storeBeyondPhysicalWidth
  deriving DecidableEq, Repr

/-- The state of the logical processor (R32), every field under the spec's name; `cfg` and `draws` are the model's
own (log 4, 8). -/
structure State where
  /-- R10: x[0]..x[15]. -/
  regs               : Vector Word64 16
  /-- R11. -/
  rip                : Word64
  /-- R12. -/
  rflags             : Word64
  /-- R13. -/
  cr0                : Word64
  /-- R120: the faulting linear address that the delivery of #PF records; no step writes it (log 3). -/
  cr2                : Word64
  /-- R14. -/
  cr4                : Word64
  /-- R15: IA32_EFER.LMA. -/
  eferLma            : Bool
  /-- R26: IA32_FEATURE_CONTROL. -/
  featureControl     : Word64
  /-- R27: IA32_RTIT_CTL.TraceEn. -/
  rtitTraceEn        : Bool
  /-- R16: CS.L. -/
  csL                : Bool
  /-- R70, R114: the D bit of the code segment (log 2). -/
  csD                : Bool
  /-- R16. -/
  seg                : SegmentFile
  /-- R17. -/
  cpl                : BitVec 2
  /-- R18. -/
  vmx                : VmxMode
  /-- R19: all ones is "no current VMCS". -/
  currentVmcs        : Word64
  /-- R20. -/
  vmxonPtr           : Word64
  /-- R21. -/
  vmInstructionError : BitVec 32
  /-- R22. -/
  initBlocked        : Bool
  /-- R23. -/
  a20mMode           : Bool
  /-- R23. -/
  a20mBlocked        : Bool
  /-- R24. -/
  smx                : Bool
  /-- R25. -/
  monitorArmed       : Bool
  /-- R30. -/
  mem                : Memory
  /-- R4, R31: the implementation's parameters; no step changes them. -/
  cfg                : Config
  /-- How many free bytes have been drawn. -/
  draws              : Nat
  deriving DecidableEq, Repr

/-- R16, R33: a segment register after reset. -/
def Segment.reset (base : Word64) : Segment :=
  { base := base, limit := 0xFFFF#32, unusable := false, execOnly := false }

/-- R33. The fields it leaves unspecified are 0 (log 1, 2, 3); the configuration is the chip's, whatever it is. -/
def State.reset : State where
  regs               := Vector.replicate 16 0#64
  rip                := 0xFFF0#64
  rflags             := 0x2#64
  cr0                := 0x60000010#64
  cr2                := 0#64
  cr4                := 0#64
  eferLma            := false
  featureControl     := 0#64
  rtitTraceEn        := false
  csL                := false
  csD                := false
  seg                := { es := Segment.reset 0#64, cs := Segment.reset 0xFFFF0000#64, ss := Segment.reset 0#64,
                          ds := Segment.reset 0#64, fs := Segment.reset 0#64, gs := Segment.reset 0#64 }
  cpl                := 0#2
  vmx                := .off
  currentVmcs        := 0#64
  vmxonPtr           := 0#64
  vmInstructionError := 0#32
  initBlocked        := false
  a20mMode           := false
  a20mBlocked        := false
  smx                := false
  monitorArmed       := false
  mem                := []
  cfg                := Config.chip.cfg
  draws              := 0

/-- The functions a `Translation.function` can stand for (R46, log 6): what function it is nobody can say, so a statement
holds for every function of the state, the linear address and the access. -/
opaque translateFunction : Nat → State → Word64 → Access → Except (BitVec 32) Nat

/-- The functions a `SegCheckLimit.function` can stand for (R44, log 14): whether an offset lies inside the limit of a
segment. The offset is a number, so a function may wrap it or not; what function it is nobody can say, so a statement
holds for every one. -/
opaque limitFunction : Nat → State → SegReg → Nat → Bool

end Sys2Proof.Machine
end

