-- ==== Sys2Proof/Machine/Ops.lean ====
section
/-! DEFINITION. The named operations over memory, registers, addresses and the instruction pointer, raising an
exception, and the completion conventions. -/

namespace Sys2Proof.Machine

/-! ## Physical memory (R30) -/

/-- The canonical form: addresses strictly rising. An unlisted address has no value, so no entry can equal it. -/
abbrev Memory.wf (m : Memory) : Prop := m.Pairwise (fun a b => a.1 < b.1)

/-- The byte at a physical address, where it has a value. -/
def Memory.read : Memory → Nat → Option Byte
  | [], _ => none
  | (k, b) :: rest, a => if k = a then some b else Memory.read rest a

/-- Memory with one byte written. -/
def Memory.write : Memory → Nat → Byte → Memory
  | [], a, v => [(a, v)]
  | (k, b) :: rest, a, v =>
    if a < k then (a, v) :: (k, b) :: rest
    else if a = k then (a, v) :: rest
    else (k, b) :: Memory.write rest a v

/-- R41: little-endian, the byte at the lowest address holds bits 7:0. -/
def leNat : List Byte → Nat
  | [] => 0
  | b :: rest => b.toNat + 256 * leNat rest

/-- R50: the processor owns the 4096 bytes at the VMXON pointer while it is in VMX operation. -/
def State.owned (s : State) (pa : Nat) : Bool :=
  !(s.vmx == .off) && decide (s.vmxonPtr.toNat ≤ pa) && decide (pa < s.vmxonPtr.toNat + 4096)

/-- R57: in A20M mode bit 20 of every physical address is forced to 0. -/
def State.maskA20 (s : State) (pa : Nat) : Nat :=
  if s.a20mMode then pa - 2 ^ 20 * (pa / 2 ^ 20 % 2) else pa

/-- `PhysPopulated` (R51, D15): the platform has memory at a physical address, which lies below the width (R30). -/
def physPopulated (c : Config) (pa : Nat) : Bool :=
  decide (pa < 2 ^ c.physAddrWidth) && c.physPopulated.any (fun r => decide (r.base ≤ pa) && decide (pa < r.base + r.size))

/-- There is memory at a physical address: the platform says so, or the model holds a byte there. -/
def State.hasMemory (s : State) (pa : Nat) : Bool :=
  (Memory.read s.mem pa).isSome || physPopulated s.cfg pa

/-- The value software finds at a physical address, where the model knows one: none at an address nothing was written
to and none in the region the processor owns (R50). -/
def State.presentByte (s : State) (pa : Nat) : Option Byte :=
  if s.owned (s.maskA20 pa) then none else Memory.read s.mem (s.maskA20 pa)

/-- A data read at this address gives "any value (a draw)": no memory is there (R47) or the processor owns it (R50). -/
def State.drawn (s : State) (pa : Nat) : Bool :=
  s.owned (s.maskA20 pa) || !s.hasMemory (s.maskA20 pa)

/-- A data read of one byte: a draw, the free byte numbered `slot`, where the spec says so (R47, R50); else what was
written there, or the unspecified content memory has had from the start (R30; log 7). -/
def State.readByte (s : State) (slot pa : Nat) : Byte :=
  if s.drawn pa then Config.freeByte slot
  else (s.presentByte pa).getD (Config.initialByte (s.maskA20 pa))

/-- A data read of the bytes at the given physical addresses, each with a draw number of its own. -/
def State.readBytes (s : State) : Nat → List Nat → List Byte
  | _, [] => []
  | slot, pa :: rest => s.readByte slot pa :: s.readBytes (slot + 1) rest

/-- `n` bytes were read: their draw numbers are used up (log 8). -/
def State.drew (s : State) (n : Nat) : State := { s with draws := s.draws + n }

/-! ## Registers and modes -/

/-- R10: x[i]. -/
def State.gpr (s : State) (i : BitVec 4) : Word64 := s.regs[i.toNat]'i.isLt

/-- R16: a segment register by name. -/
def State.segment (s : State) : SegReg → Segment
  | .es => s.seg.es
  | .cs => s.seg.cs
  | .ss => s.seg.ss
  | .ds => s.seg.ds
  | .fs => s.seg.fs
  | .gs => s.seg.gs

/-- R70, R135: 64-bit mode. -/
def State.is64 (s : State) : Bool := s.eferLma && s.csL

/-- R70: what kind of code the processor executes. -/
def State.codeMode (s : State) : CodeMode :=
  if s.is64 then .m64 else if s.csD then .m32 else .m16

/-- R114: the instruction pointer wraps at 64 bits in 64-bit mode, at 32 bits outside it, at 16 bits with a 16-bit
code segment. The bits above are 0 (log 13). -/
def wrapIp (mode : CodeMode) (v : Word64) : Word64 :=
  match mode with
  | .m64 => v
  | .m32 => (v.setWidth 32).setWidth 64
  | .m16 => (v.setWidth 16).setWidth 64

/-- R11, R114: `s.rip + len`, wrapping. -/
def State.nextRip (s : State) (len : Nat) : Word64 := wrapIp s.codeMode (s.rip + BitVec.ofNat 64 len)

/-! ## Segmentation and paging -/

/-- R43 (2): the base a segment adds in 64-bit mode. -/
def State.base64 (s : State) : SegReg → Word64
  | .es => 0#64
  | .cs => 0#64
  | .ss => 0#64
  | .ds => 0#64
  | .fs => s.seg.fs.base
  | .gs => s.seg.gs.base

/-- R43 (2): the linear address of an offset in a segment, `mod 2^32` outside 64-bit mode and `mod 2^64` in it. -/
def State.linearAddr (s : State) (r : SegReg) (offset : Word64) : Word64 :=
  if s.is64 then s.base64 r + offset
  else (((s.segment r).base + offset).setWidth 32).setWidth 64

/-- The linear addresses of the `n` bytes at an effective address, in order. -/
def State.linearBytes (s : State) (r : SegReg) (ea : Word64) (n : Nat) : List Word64 :=
  (List.range n).map (fun i => s.linearAddr r (ea + BitVec.ofNat 64 i))

/-- The bits of a linear address. -/
def linearBits : LinearWidth → Nat
  | .w48 => 48
  | .w57 => 57

/-- R45: bits 63 down to `LINEAR_ADDR_WIDTH - 1` are all equal. -/
def canonical (w : LinearWidth) (la : Word64) : Bool :=
  la == (la.setWidth (linearBits w)).signExtend 64

/-- What the functions taken as given, `SegCheck` and `Translate` (R31), may depend on: the state but for its status
flags, whose old values "never matter" (R112), and the draw counter, which is no state of the processor (log 6, 8,
14). -/
def State.givenView (s : State) : State :=
  { s with rflags := s.rflags &&& ~~~statusMask, draws := 0 }

/-- The offset is at most the limit of R16. -/
def Segment.upTo (g : Segment) (offset : Nat) : Bool := decide (offset ≤ g.limit.toNat)

/-- The offset lies inside the limit of the segment, as the input `SegCheck` says (R31, R44; log 14). -/
def State.insideLimit (s : State) (r : SegReg) (offset : Nat) : Bool :=
  match s.cfg.segCheck with
  | .lastOffset => (s.segment r).upTo offset
  | .function k => limitFunction k s.givenView r offset

/-- R44: every one of the `n` bytes `ea .. ea+n-1` lies inside the limit. -/
def State.inLimit (s : State) (r : SegReg) (ea : Word64) (n : Nat) : Bool :=
  (List.range n).all (fun k => s.insideLimit r (ea.toNat + k))

/-- The fault of an operand outside its segment: #SS(0) through SS, #GP(0) through any other (R44, R45). -/
def segmentFault : SegReg → Fault
  | .ss => .ss 0#32
  | .es => .gp 0#32
  | .cs => .gp 0#32
  | .ds => .gp 0#32
  | .fs => .gp 0#32
  | .gs => .gp 0#32

/-- R44: what is wrong with an operand in a segment outside 64-bit mode. "Unusable" is asked of DS, ES, FS, GS and SS,
"execute-only" of all but SS. -/
def State.segmentBad (s : State) (r : SegReg) (ea : Word64) (n : Nat) : Bool :=
  let g := s.segment r
  !(s.inLimit r ea n) || (!(r == .cs) && g.unusable) || (!(r == .ss) && g.execOnly)

/-- R43 (1): `SegCheck`, R44, or in 64-bit mode the canonical test of every byte, R45. -/
def State.segCheck (s : State) (r : SegReg) (ea : Word64) (n : Nat) : Option Fault :=
  let bad := if s.is64 then !((s.linearBytes r ea n).all (canonical s.cfg.linearAddrWidth)) else s.segmentBad r ea n
  if bad then some (segmentFault r) else none

/-- What a table says of a linear address (R46). -/
def tableTranslate (t : PageTable) (width : Nat) (la : Word64) (access : Access) : Except (BitVec 32) Nat :=
  match (t.entries.find? (fun e => e.page == la.toNat / 4096 && e.access == access)).map PageEntry.result with
  | some (.frame n) => .ok (n * 4096 + la.toNat % 4096)
  | some (.fault c) => .error c
  | none => if t.identity && decide (la.toNat < 2 ^ width) then .ok la.toNat else .error t.faultCode

/-- `Translate` with paging on (R46): "a physical address below `2^PHYS_ADDR_WIDTH`" or the code of the page fault. -/
def State.translatePaged (s : State) (la : Word64) (access : Access) : Except (BitVec 32) Nat :=
  match s.cfg.translate with
  | .pages t    => tableTranslate t s.cfg.physAddrWidth la access
  | .function n =>
    match translateFunction n s.givenView la access with
    | .ok pa   => .ok (pa % 2 ^ s.cfg.physAddrWidth)
    | .error c => .error c

/-- R46: `Translate`. With paging off (`CR0.PG`, bit 31, is 0) it is the identity (log 25). -/
def State.translate (s : State) (la : Word64) (access : Access) : Except PageFault Nat :=
  if s.cr0.getLsbD 31 then
    match s.translatePaged la access with
    | .ok pa   => .ok pa
    | .error c => .error { code := c, linear := la }
  else .ok la.toNat

/-- R129: of two page faults the one at the lower linear address is reported. -/
def PageFault.lower (p q : PageFault) : PageFault := if q.linear < p.linear then q else p

/-- R43 (3): the translation of every byte; where some fault, the fault at the lowest linear address (R129). -/
def State.translateAll (s : State) (access : Access) : List Word64 → Except PageFault (List Nat)
  | [] => .ok []
  | la :: rest =>
    match s.translate la access, s.translateAll access rest with
    | .ok pa,   .ok pas  => .ok (pa :: pas)
    | .ok _,    .error q => .error q
    | .error p, .ok _    => .error p
    | .error p, .error q => .error (p.lower q)

/-- R43: `MemRead(seg, ea, n)`: the segment test, then the translation of every byte, then the value. -/
def State.memRead (s : State) (r : SegReg) (ea : Word64) (n : Nat) : Except Fault Nat :=
  match s.segCheck r ea n with
  | some e => .error e
  | none =>
    match s.translateAll .read (s.linearBytes r ea n) with
    | .error p => .error (.pf p.code p.linear)
    | .ok pas => .ok (leNat (s.readBytes s.draws pas))

/-- R47: `PhysRead(pa, n)`: no segmentation, no paging, no exception. -/
def State.physRead (s : State) (pa n : Nat) : Nat :=
  leNat (s.readBytes s.draws ((List.range n).map (fun i => pa + i)))

/-! ## Exceptions -/

/-- Raising an exception, and the VM exit: a terminal outcome with the state as it was (R8, R127, R131). The spec
gives no delivery, so none is modelled, and no return from one (R132). -/
def raise (e : Fault) : Host.Outcome State Fault Refusal := .fault e

/-- R120: the vector of an exception; a VM exit has none. For the record: nothing depends on it. -/
def Fault.vector : Fault → Option Nat
  | .ud     => some 6
  | .gp _   => some 13
  | .ss _   => some 12
  | .pf _ _ => some 14
  | .vmExit => none

/-- R120: the error code of an exception. -/
def Fault.errorCode : Fault → Option (BitVec 32)
  | .ud     => none
  | .gp c   => some c
  | .ss c   => some c
  | .pf c _ => some c
  | .vmExit => none

/-! ## The completion conventions (R105 to R108), each with the instruction pointer of R114 -/

/-- The instruction completes: the status flags are written and the instruction pointer moves past it. -/
def State.done (s : State) (flags : StatusFlags) (len : Nat) : State :=
  { s with rflags := writeStatus flags s.rflags, rip := s.nextRip len }

/-- R105. -/
def State.vmSucceed (s : State) (len : Nat) : State := s.done succeedFlags len

/-- R106. -/
def State.vmFailInvalid (s : State) (len : Nat) : State := s.done failInvalidFlags len

/-- R107. -/
def State.vmFailValid (s : State) (error : BitVec 32) (len : Nat) : State :=
  { s.done failValidFlags len with vmInstructionError := error }

/-- R19: the value of the current-VMCS pointer that means "no current VMCS". -/
def noCurrentVmcs : Word64 := 0xFFFFFFFFFFFFFFFF#64

/-- R108. -/
def State.vmFail (s : State) (error : BitVec 32) (len : Nat) : State :=
  if s.currentVmcs = noCurrentVmcs then s.vmFailInvalid len else s.vmFailValid error len

end Sys2Proof.Machine
end

