-- ==== Sys2Proof/Machine/Operands.lean ====
section
/-! DEFINITION. The segment and the effective address of the memory operand (spec/30_encoding.md R68 to R71, R74). -/

namespace Sys2Proof.Machine

/-- A value cut to the address size and zero-extended: sums wrap at the address size (R113a). -/
def wrapAddr (size : AddrSize) (v : Word64) : Word64 := (v.setWidth size.bits).setWidth 64

/-- R70: a register read at the address size. -/
def State.addrReg (s : State) (size : AddrSize) (i : BitVec 4) : Word64 := wrapAddr size (s.gpr i)

/-- R68, R69, R74: a displacement, sign-extended; the sum is cut to the address size afterwards. -/
def dispValue {w : Nat} : Disp w → Word64
  | .absent => 0#64
  | .byte d => d.signExtend 64
  | .wide d => d.signExtend 64

/-- R66: REX.B, 0 where there is no REX byte. -/
def rexB (rex : Option Rex) : Bool :=
  match rex with
  | some r => r.b
  | none => false

/-- R66: REX.X, 0 where there is no REX byte. -/
def rexX (rex : Option Rex) : Bool :=
  match rex with
  | some r => r.x
  | none => false

/-- R74: a register number of four bits, `REX.B ++ rm`, `REX.X ++ index` or `REX.B ++ base`. -/
def regNumber (high : Bool) (low : BitVec 3) : BitVec 4 := BitVec.ofBool high ++ low

/-- R68: the registers of a 16-bit base form: BX, BP, SI, DI are x[3], x[5], x[6], x[7]. -/
def State.base16Value (s : State) : Base16 → Word64
  | .bxSi => s.addrReg .a16 3#4 + s.addrReg .a16 6#4
  | .bxDi => s.addrReg .a16 3#4 + s.addrReg .a16 7#4
  | .bpSi => s.addrReg .a16 5#4 + s.addrReg .a16 6#4
  | .bpDi => s.addrReg .a16 5#4 + s.addrReg .a16 7#4
  | .si   => s.addrReg .a16 6#4
  | .di   => s.addrReg .a16 7#4
  | .bp   => s.addrReg .a16 5#4
  | .bx   => s.addrReg .a16 3#4

/-- R69, R74: the scaled index, 0 for "no index" (the four-bit number 0100). -/
def State.indexValue (s : State) (size : AddrSize) (rex : Option Rex) (scale : BitVec 2) (index : BitVec 3) : Word64 :=
  if regNumber (rexX rex) index = 4#4 then 0#64
  else s.addrReg size (regNumber (rexX rex) index) <<< scale.toNat

/-- The terms of the effective address, before the sum is cut to the address size (R68, R69, R74). -/
def State.eaTerms (s : State) (f : VmxonForm) : Word64 :=
  match f.operand with
  | .register _ => 0#64
  | .absolute16 d => d.setWidth 64
  | .based16 b d => s.base16Value b + dispValue d
  | .displacement32 d =>
    match f.mode with
    | .m64 => s.rip + BitVec.ofNat 64 f.length + d.signExtend 64
    | .m32 => d.setWidth 64
    | .m16 => d.setWidth 64
  | .based rm d => s.addrReg f.addrSize (regNumber (rexB f.rex) rm) + dispValue d
  | .sib scale index base d =>
    s.addrReg f.addrSize (regNumber (rexB f.rex) base) + s.indexValue f.addrSize f.rex scale index + dispValue d
  | .sibNoBase scale index d => s.indexValue f.addrSize f.rex scale index + d.signExtend 64

/-- R68 to R70, R74: the effective address. A register operand has none and raises #UD before this is asked. -/
def State.effectiveAddress (s : State) (f : VmxonForm) : Word64 := wrapAddr f.addrSize (s.eaTerms f)

/-- R68: SS where BP takes part, DS otherwise. -/
def base16Segment : Base16 → SegReg
  | .bxSi => .ds
  | .bxDi => .ds
  | .bpSi => .ss
  | .bpDi => .ss
  | .si   => .ds
  | .di   => .ds
  | .bp   => .ss
  | .bx   => .ds

/-- R69, R74: SS where the base register is x[4] or x[5], DS otherwise. -/
def baseSegment (base : BitVec 4) : SegReg := if base = 4#4 ∨ base = 5#4 then .ss else .ds

/-- The default segment of an operand (R68, R69, R74). -/
def defaultSegment (rex : Option Rex) : Operand → SegReg
  | .register _       => .ds
  | .absolute16 _     => .ds
  | .based16 b _      => base16Segment b
  | .displacement32 _ => .ds
  | .based rm _       => baseSegment (regNumber (rexB rex) rm)
  | .sib _ _ base _   => baseSegment (regNumber (rexB rex) base)
  | .sibNoBase _ _ _  => .ds

/-- The segment a prefix names. -/
def overrideOf : LegacyPrefix → Option SegReg
  | .segment r   => some r
  | .mandatory   => none
  | .addressSize => none

/-- R65: in 64-bit mode the overrides `2E`, `36`, `3E`, `26` are ignored and the default stays. -/
def overrideHolds (mode : CodeMode) (r : SegReg) : Bool :=
  match mode, r with
  | .m64, .fs => true
  | .m64, .gs => true
  | .m64, _   => false
  | .m32, _   => true
  | .m16, _   => true

/-- R71: the default segment unless an override is admitted. -/
def operandSegment (f : VmxonForm) : SegReg :=
  match f.prefixes.findSome? overrideOf with
  | none => defaultSegment f.rex f.operand
  | some r => if overrideHolds f.mode r then r else defaultSegment f.rex f.operand

end Sys2Proof.Machine
end

