-- ==== Sys2Proof/Machine/VmxEntry.lean ====
section
/-! DEFINITION. The family "VMX entry": the meaning of VMXON (spec/40_vmxon.md R80, the tests R81 to R111). -/

namespace Sys2Proof.Machine

/-- R81: the operand is a register (`mod` = 3). -/
def isRegister : Operand → Bool
  | .register _       => true
  | .absolute16 _     => false
  | .based16 _ _      => false
  | .displacement32 _ => false
  | .based _ _        => false
  | .sib _ _ _ _      => false
  | .sibNoBase _ _ _  => false

/-- R80 lines 1 and 2, R81 to R85: a register operand, CR0.PE = 0, CR4.VMXE = 0, RFLAGS.VM = 1, compatibility mode. -/
def invalidOpcode (f : VmxonForm) (s : State) : Bool :=
  isRegister f.operand || !s.cr0.getLsbD 0 || !s.cr4.getLsbD 13 || s.rflags.getLsbD 17 || (s.eferLma && !s.csL)

/-- R87: one control register against its pair of fixed-bit MSRs. -/
def fixedBitsHold (value fixed0 fixed1 : Word64) : Bool :=
  value &&& fixed0 == fixed0 && value &&& ~~~fixed1 == 0#64

/-- What a predicate on CR0 and CR4 says. -/
def CrPredicate.holds (cr0 cr4 : Word64) : CrPredicate → Bool
  | .fixedBits a b c d => fixedBitsHold cr0 a b && fixedBitsHold cr4 c d
  | .negated p         => !CrPredicate.holds cr0 cr4 p
  | .both p q          => CrPredicate.holds cr0 cr4 p && CrPredicate.holds cr0 cr4 q

/-- R87: `Cr0Cr4Supported`, the predicate the implementation fixes (R4). -/
def cr0Cr4Supported (c : Config) (cr0 cr4 : Word64) : Bool := CrPredicate.holds cr0 cr4 c.cr0Cr4Supported

/-- R89 to R91: IA32_FEATURE_CONTROL supports entry in the current mode: the lock bit, and bit 1 in SMX operation or
bit 2 outside it. -/
def featureControlAllows (s : State) : Bool :=
  s.featureControl.getLsbD 0 && (if s.smx then s.featureControl.getLsbD 1 else s.featureControl.getLsbD 2)

/-- R80 lines 5 to 9, R86 to R91: what makes VMXON raise #GP(0) outside VMX operation before it reads its operand. -/
def entryProhibited (s : State) : Bool :=
  decide (0#2 < s.cpl) || s.a20mMode || !cr0Cr4Supported s.cfg s.cr0 s.cr4 || !featureControlAllows s

/-- R80 lines 13 to 15, R93: the pointer is not 4KB-aligned, or sets a bit beyond the physical-address width, or sets
a bit in 63:32 while IA32_VMX_BASIC[48] is 1. -/
def pointerRejected (c : Config) (addr : Word64) : Bool :=
  !(addr.extractLsb' 0 12 == 0#12) || !(addr >>> c.physAddrWidth == 0#64)
    || (c.vmxBasic48 && !(addr.extractLsb' 32 32 == 0#32))

/-- R80 line 19, R95: the revision word is not the processor's, or has bit 31 set. -/
def revisionRejected (c : Config) (rev : BitVec 32) : Bool :=
  !(rev.extractLsb' 0 31 == c.vmcsRevisionId) || rev.getLsbD 31

/-- R80 lines 22 to 28, R97 to R103. -/
def State.enterVmx (s : State) (addr : Word64) : State :=
  { s with
    currentVmcs  := noCurrentVmcs
    vmx          := .root
    vmxonPtr     := addr
    initBlocked  := true
    a20mBlocked  := true
    monitorArmed := false
    rtitTraceEn  := if s.cfg.ptSupported && !s.cfg.ptAllowedInVmx then false else s.rtitTraceEn }

/-- R80 lines 12 to 31: outside VMX operation, every test before the operand passed. -/
def tryEntry (f : VmxonForm) (s : State) : Host.Outcome State Fault Refusal :=
  match s.memRead (operandSegment f) (s.effectiveAddress f) 8 with
  | .error e => raise e
  | .ok v =>
    let addr := BitVec.ofNat 64 v
    let s1 := s.drew 8
    if pointerRejected s.cfg addr then .next (s1.vmFailInvalid f.length)
    else if revisionRejected s.cfg (BitVec.ofNat 32 (s1.physRead addr.toNat 4)) then
      .next ((s1.drew 4).vmFailInvalid f.length)
    else .next (((s1.drew 4).enterVmx addr).vmSucceed f.length)

/-- R108, R111: the error number of "VMXON executed in VMX root operation". -/
def vmxonInRootError : BitVec 32 := 15#32

/-- VMXON m64 (R80). -/
def execVmxon (f : VmxonForm) (s : State) : Host.Outcome State Fault Refusal :=
  if invalidOpcode f s then raise .ud
  else match s.vmx with
    | .off => if entryProhibited s then raise (.gp 0#32) else tryEntry f s
    | .nonRoot => raise .vmExit
    | .root => if 0#2 < s.cpl then raise (.gp 0#32) else .next (s.vmFail vmxonInRootError f.length)

end Sys2Proof.Machine
end

