-- ==== Sys2Proof/Machine/Fetch.lean ====
section
/-! DEFINITION. Where the bytes of the next instruction stand (spec/30_encoding.md R75: "A byte sequence at `s.rip`").
The spec is handed the decoded instruction (R31, D25); the fetch is the model's own (log 10). -/

namespace Sys2Proof.Machine

/-- The offset in CS of the instruction's byte `i`. -/
def State.fetchOffset (s : State) (i : Nat) : Word64 := wrapIp s.codeMode (s.rip + BitVec.ofNat 64 i)

/-- The offset can be fetched from: canonical in 64-bit mode, at most the CS limit outside it
(log 10). -/
def State.fetchAllowed (s : State) (offset : Word64) : Bool :=
  if s.is64 then canonical s.cfg.linearAddrWidth (s.linearAddr .cs offset) else s.seg.cs.upTo offset.toNat

/-- The physical address of the instruction's byte `i`, none where fetching it would fault. -/
def State.fetchAddr (s : State) (i : Nat) : Option Nat :=
  if s.fetchAllowed (s.fetchOffset i) then (s.translate (s.linearAddr .cs (s.fetchOffset i)) .fetch).toOption
  else none

/-- The instruction's byte `i`, where the model holds one. -/
def State.fetchByte (s : State) (i : Nat) : Option Byte := (s.fetchAddr i).bind s.presentByte

/-- The bytes from the instruction's byte `i` on, at most `n`, up to the first that is missing. -/
def State.fetchFrom (s : State) : Nat → Nat → List Byte
  | 0, _ => []
  | n + 1, i =>
    match s.fetchByte i with
    | none => []
    | some b => b :: s.fetchFrom n (i + 1)

/-- The bytes the decoder is given: as many as the longest VMXON has (R67). -/
def State.fetchBytes (s : State) : List Byte := s.fetchFrom maxLength 0

/-- The instruction at the instruction pointer (R75). -/
def State.fetchInstr (s : State) : Except DecodeError (Instr × List Byte) := decode s.codeMode s.fetchBytes

/-- Why there is no instruction to execute. -/
def refusalOf : DecodeError → Refusal
  | .truncated           => .noInstructionBytes
  | .prefixNotAdmitted b => .notAnInstruction (.prefixNotAdmitted b)
  | .prefixRepeated      => .notAnInstruction .prefixRepeated
  | .noMandatoryPrefix   => .notAnInstruction .noMandatoryPrefix
  | .notVmxon            => .notAnInstruction .notVmxon

/-- Memory with bytes put where the fetch of `s` reads the instruction's bytes `i`, `i + 1`, ... -/
def State.placeFrom (s : State) : Nat → List Byte → Memory → Memory
  | _, [], m => m
  | i, b :: rest, m =>
    s.placeFrom (i + 1) rest
      (match s.fetchAddr i with
       | some pa => Memory.write m (s.maskA20 pa) b
       | none => m)

end Sys2Proof.Machine
end

