-- ==== Sys2Proof/Machine/Step.lean ====
section
/-! DEFINITION. One step: the instruction at the instruction pointer is executed (spec/30_encoding.md R75). -/

namespace Sys2Proof.Machine

/-- One step (R8, R75). -/
def step (s : State) : Host.Outcome State Fault Refusal :=
  match s.fetchInstr with
  | .ok (i, _) => exec i s
  | .error e => .refused (refusalOf e)

/-- `s` with an instruction, numbered as spec/opcode_table.json numbers its bits, stored where the next step fetches
it; this stands for loading a program from outside (log 19). -/
def State.withFetchWord (s : State) (nbits w : Nat) : State :=
  { s with mem := s.placeFrom 0 (tableBytes maxLength (w % 2 ^ nbits)) s.mem }

end Sys2Proof.Machine
end

