-- ==== Sys2Proof/Machine/Environment.lean ====
section
/-! DEFINITION. What the outside world and other software can do BETWEEN steps (spec/70_reset_and_hazards.md R160,
spec/20_memory.md R50, spec/10_state.md R23). No step calls these. -/

namespace Sys2Proof.Machine

/-- R23, R160 (c): the platform drives the A20M# pin; while A20M is blocked the processor cannot be in A20M mode.
It leaves address-range monitoring as it is (log 35). -/
def State.driveA20m (s : State) (asserted : Bool) : State :=
  { s with a20mMode := asserted && !s.a20mBlocked }

/-- R50: a software store of one byte to physical memory; one to the region the processor owns is refused. The spec does
not say what a store does where there is no memory, and log 31 settles it: at or above 2^PHYS_ADDR_WIDTH, where the map
of R30 ends, it is refused by name; below it, where the platform has no memory (R51), it changes nothing, since a read
there is a draw (R47). That a store leaves address-range monitoring as it is, is the model's choice too (log 35: N6 says
nothing of what else clears it). -/
def State.softwareStore (s : State) (pa : Nat) (v : Byte) : Host.Outcome State Fault Refusal :=
  let a := s.maskA20 pa
  if s.owned a then .refused .storeToVmxonRegion
  else if 2 ^ s.cfg.physAddrWidth ≤ a then .refused .storeBeyondPhysicalWidth
  else if s.hasMemory a then .next { s with mem := Memory.write s.mem a v }
  else .next s

end Sys2Proof.Machine
end

