-- ==== Sys2Proof/Machine/Run.lean ====
section
/-! DEFINITION. The run of several VMXON instructions to an end address the launch names
(spec/70_reset_and_hazards.md R159, decision D27). It is no part of the chip and no step calls it. -/

namespace Sys2Proof.Machine

/-- How a run stands: it reached the end address (the normal end), it ended at a fault or a VM exit or was refused, each
with the state it was in, which is unchanged by the stop (R127, R131), or `running`: the steps allowed are used up. -/
inductive RunResult where
  | ended (s : State)
  | fault (e : Fault) (s : State)
  | refused (r : Refusal) (s : State)
  | running (s : State)
  deriving DecidableEq, Repr

/-- R159: at most `fuel` executions from `s`. "The run goes on while the outcome is `Done` and `s.rip` is not the end
address"; the address is looked at after an execution, so a run is at least one (log 33). -/
def run (endAddress : Word64) : Nat → State → RunResult
  | 0, s => .running s
  | fuel + 1, s =>
    match step s with
    | .next t    => if t.rip = endAddress then .ended t else run endAddress fuel t
    | .fault e   => .fault e s
    | .refused r => .refused r s

end Sys2Proof.Machine
end

