-- ==== Sys2Proof/Safety.lean ====
section
/-! DEFINITION. The terms the claims use: the invariant of the machine, the state of a processor in VMX root
operation, and what software must establish before VMXON (spec/70_reset_and_hazards.md R152). -/

namespace Sys2Proof.Machine

/-- R93: the pointer is a multiple of 4096, below the physical-address width, and below 2^32 where IA32_VMX_BASIC[48]
is 1: the usable VMXON pointers, as numbers. -/
def usablePointer (c : Config) (p : Nat) : Prop :=
  p % 4096 = 0 ∧ p < 2 ^ c.physAddrWidth ∧ (c.vmxBasic48 = true → p < 2 ^ 32)

/-- What holds of a processor that entered VMX root operation by VMXON (R97 to R103), as long as nothing but VMXON
runs. -/
structure State.RootInv (s : State) : Prop where
  initBlocked : s.initBlocked = true
  a20mBlocked : s.a20mBlocked = true
  pointer     : usablePointer s.cfg s.vmxonPtr.toNat
  trace       : s.cfg.ptSupported = true → s.cfg.ptAllowedInVmx = false → s.rtitTraceEn = false

/-- The invariant: memory is in its canonical form (R30) and holds bytes only where the platform has memory, which lies
inside the physical-address width (R51), the configuration is legal (R4), A20M mode excludes blocked A20M (R23), SMX
operation needs SMX (R24), and VMX root operation was entered by VMXON. -/
structure State.Inv (s : State) : Prop where
  memory    : Memory.wf s.mem
  populated : ∀ c ∈ s.mem, physPopulated s.cfg c.1 = true
  cfgLegal  : s.cfg.legal = true
  a20m      : s.a20mBlocked = true → s.a20mMode = false
  smx       : s.smx = true → s.cfg.smxSupported = true
  root      : s.vmx = .root → s.RootInv

/-- R152 items 1 to 5: no cause of #UD. -/
structure Recognized (f : VmxonForm) (s : State) : Prop where
  memoryOperand : ∀ rm, f.operand ≠ .register rm
  protection    : s.cr0.getLsbD 0 = true
  vmxe          : s.cr4.getLsbD 13 = true
  notVm86       : s.rflags.getLsbD 17 = false
  notCompat     : s.eferLma = true → s.csL = true

/-- R152 items 7 to 10: no cause of #GP(0) outside VMX operation before the operand is read. -/
structure Permitted (s : State) : Prop where
  cpl        : s.cpl = 0#2
  notA20m    : s.a20mMode = false
  supported  : cr0Cr4Supported s.cfg s.cr0 s.cr4 = true
  lockBit    : s.featureControl.getLsbD 0 = true
  insideSmx  : s.smx = true → s.featureControl.getLsbD 1 = true
  outsideSmx : s.smx = false → s.featureControl.getLsbD 2 = true

/-- R152 item 11: the operand's 8 bytes pass the segment test and are translated, byte `i` to `pas[i]`. Where byte `i`
is, is the model's reading (log 14, 15, 16). -/
structure OperandAt (f : VmxonForm) (s : State) (pas : List Nat) : Prop where
  segment   : s.segCheck (operandSegment f) (s.effectiveAddress f) 8 = none
  count     : pas.length = 8
  translate : ∀ (i : Nat) (pa : Nat), pas[i]? = some pa →
    s.translate (s.linearAddr (operandSegment f) (s.effectiveAddress f + BitVec.ofNat 64 i)) .read = .ok pa

/-- R41, R92: the pointer in the operand: the 8 bytes at `pas`, the first lowest. -/
def pointerAt (s : State) (pas : List Nat) : Nat := leNat (s.readBytes s.draws pas)

/-- R94: the revision word that follows the 8 operand bytes in the order of the draws. -/
def revisionAt (s : State) (addr : Nat) : Nat := (s.drew 8).physRead addr 4

/-- R68: the displacement behind a 16-bit ModRM byte: absent, `sext_16(disp8)` or `disp16`, as `mod` says. -/
def dispField16 (mod : BitVec 2) : List Byte → Option (BitVec 16)
  | []       => if mod = 0#2 then some 0#16 else none
  | [b]      => if mod = 1#2 then some (b.signExtend 16) else none
  | [lo, hi] => if mod = 2#2 then some (hi ++ lo) else none
  | _        => none

/-- Four bytes as a `disp32`. -/
def disp32Field : List Byte → Option (BitVec 32)
  | [b0, b1, b2, b3] => some (b3 ++ b2 ++ b1 ++ b0)
  | _                => none

/-- R69: the displacement behind a 32-bit ModRM or SIB byte: absent, `sext_32(disp8)` or `disp32`, as `mod` says. -/
def dispField32 (mod : BitVec 2) (bs : List Byte) : Option (BitVec 32) :=
  match bs with
  | []  => if mod = 0#2 then some 0#32 else none
  | [b] => if mod = 1#2 then some (b.signExtend 32) else none
  | bs  => if mod = 2#2 then disp32Field bs else none

/-- R152: everything that must hold for VMXON to complete with VMsucceed, with the VMXON pointer it then uses. -/
structure EntryReady (f : VmxonForm) (s : State) (addr : Nat) : Prop where
  recognized : Recognized f s
  off        : s.vmx = .off
  permitted  : Permitted s
  operand    : ∃ pas, OperandAt f s pas ∧ pointerAt s pas = addr
  pointer    : usablePointer s.cfg addr
  revision   : revisionAt s addr = s.cfg.vmcsRevisionId.toNat

end Sys2Proof.Machine
end

