-- ==== Sys2Proof/Certificates/Slice0/Obligations.lean ====
section
/-! DEFINITION. The statements for the provers. Each docstring names the rule of spec/ it formalises. Statements hold
for every value of the parameters in `cfg` and of the free bytes. -/

open Sys2Proof Sys2Proof.Machine

/-! ## Encoding -/

/-- The encodings printed in spec/30_encoding.md section 6, each decoded in its mode. -/
def Obligations.SpecExampleEncodingsDecode : Prop :=
  decode .m64 [0xF3, 0x0F, 0xC7, 0x30] = .ok (.vmxon ⟨.m64, [.mandatory], none, .based 0 .absent⟩, []) ∧
  decode .m64 [0xF3, 0x0F, 0xC7, 0x33] = .ok (.vmxon ⟨.m64, [.mandatory], none, .based 3 .absent⟩, []) ∧
  decode .m64 [0xF3, 0x0F, 0xC7, 0x34, 0x24] = .ok (.vmxon ⟨.m64, [.mandatory], none, .sib 0 4 4 .absent⟩, []) ∧
  decode .m64 [0xF3, 0x0F, 0xC7, 0x75, 0xF8] = .ok (.vmxon ⟨.m64, [.mandatory], none, .based 5 (.byte 0xF8)⟩, []) ∧
  decode .m64 [0xF3, 0x0F, 0xC7, 0x35, 0xF8, 0x00, 0x00, 0x00] =
    .ok (.vmxon ⟨.m64, [.mandatory], none, .displacement32 0xF8⟩, []) ∧
  decode .m64 [0xF3, 0x41, 0x0F, 0xC7, 0x30] =
    .ok (.vmxon ⟨.m64, [.mandatory], some ⟨false, false, false, true⟩, .based 0 .absent⟩, []) ∧
  decode .m64 [0xF3, 0x0F, 0xC7, 0x74, 0xC8, 0x10] =
    .ok (.vmxon ⟨.m64, [.mandatory], none, .sib 3 1 0 (.byte 0x10)⟩, []) ∧
  decode .m64 [0x64, 0xF3, 0x0F, 0xC7, 0x30] =
    .ok (.vmxon ⟨.m64, [.segment .fs, .mandatory], none, .based 0 .absent⟩, []) ∧
  decode .m64 [0x67, 0xF3, 0x0F, 0xC7, 0x30] =
    .ok (.vmxon ⟨.m64, [.addressSize, .mandatory], none, .based 0 .absent⟩, []) ∧
  decode .m32 [0xF3, 0x0F, 0xC7, 0x30] = .ok (.vmxon ⟨.m32, [.mandatory], none, .based 0 .absent⟩, []) ∧
  decode .m32 [0xF3, 0x0F, 0xC7, 0x35, 0x00, 0x10, 0x00, 0x00] =
    .ok (.vmxon ⟨.m32, [.mandatory], none, .displacement32 0x1000⟩, []) ∧
  decode .m32 [0x67, 0xF3, 0x0F, 0xC7, 0x37] =
    .ok (.vmxon ⟨.m32, [.addressSize, .mandatory], none, .based16 .bx .absent⟩, []) ∧
  decode .m64 [0xF3, 0x0F, 0xC7, 0xF0] = .ok (.vmxon ⟨.m64, [.mandatory], none, .register 0⟩, [])

/-- Every well-formed instruction is read back from its bytes, whatever follows them (R60, R64 to R69, R74, R75). -/
def Obligations.DecodeOfEncodeGivesTheInstruction : Prop :=
  ∀ (i : Instr) (rest : List Byte), i.wf = true → decode i.mode (encode i ++ rest) = .ok (i, rest)

/-- R75: nothing decodes to VMXON but the bytes of a well-formed instruction of that mode. -/
def Obligations.DecodedBytesAreTheEncoding : Prop :=
  ∀ (mode : CodeMode) (bs rest : List Byte) (i : Instr), decode mode bs = .ok (i, rest) →
    bs = encode i ++ rest ∧ i.mode = mode ∧ i.wf = true

/-- R67: `len = p + r + 3 + sib + d`, 4 to 12 bytes, both bounds met. -/
def Obligations.LengthIsTheSumOfThePartsAndBounded : Prop :=
  (∀ f : VmxonForm, f.wf = true →
    (encode (.vmxon f)).length = f.prefixes.length + f.rex.toList.length + 3 + f.operand.sibSize + f.operand.dispSize ∧
    f.length = (encode (.vmxon f)).length ∧
    1 ≤ f.prefixes.length ∧ f.prefixes.length ≤ 3 ∧ f.operand.dispSize ∈ [0, 1, 2, 4] ∧
    4 ≤ f.length ∧ f.length ≤ 12) ∧
  (∃ f : VmxonForm, f.wf = true ∧ encode (.vmxon f) = [0xF3, 0x0F, 0xC7, 0x30]) ∧
  (∃ f : VmxonForm, f.wf = true ∧ f.length = 12)

/-- R65: a refused prefix (`66`, `F2`, `F0`) behind any admitted ones ends in an error, and every VMXON that decodes has
exactly one `F3`, at most one segment override, at most one `67`, and a REX byte in 64-bit mode only. -/
def Obligations.OnlyTheAdmittedPrefixesDecode : Prop :=
  (∀ (mode : CodeMode) (ps : List LegacyPrefix) (b : Byte) (bs : List Byte), b ∈ [0x66#8, 0xF2#8, 0xF0#8] →
    ∃ e, decode mode (ps.map LegacyPrefix.toByte ++ b :: bs) = .error e) ∧
  (∀ (mode : CodeMode) (bs rest : List Byte) (f : VmxonForm), decode mode bs = .ok (.vmxon f, rest) →
    f.prefixes.count .mandatory = 1 ∧ (f.prefixes.filter LegacyPrefix.isSegment).length ≤ 1 ∧
    f.prefixes.count .addressSize ≤ 1 ∧ (f.rex.isSome = true → mode = .m64))

/-- R64: a byte `40` to `4F` outside 64-bit mode is not a prefix and the sequence is not VMXON; in 64-bit mode such a
byte must be the last one before `0F`. -/
def Obligations.RexByteIsReadIn64BitModeOnly : Prop :=
  ∀ (mode : CodeMode) (ps : List LegacyPrefix) (b : Byte) (bs : List Byte), b.extractLsb' 4 4 = 4#4 →
    mode ≠ .m64 ∨ bs.head? ≠ some 0x0F#8 →
    ∃ e, decode mode (ps.map LegacyPrefix.toByte ++ b :: bs) = .error e

/-! ## The step -/

/-- R75, R31: where the bytes at the instruction pointer are those of a well-formed instruction of the current mode,
the step executes it. -/
def Obligations.StepExecutesTheFetchedInstruction : Prop :=
  ∀ (s : State) (i : Instr), i.wf = true → i.mode = s.codeMode →
    (∀ (k : Nat) (b : Byte), (encode i)[k]? = some b → s.fetchByte k = some b) → step s = exec i s

/-- R72, R75: the step refuses exactly where the fetched bytes do not begin with a VMXON of the current mode; VMXON
itself is never refused. -/
def Obligations.StepRefusesExactlyTheOtherBytes : Prop :=
  ∀ s : State, (∃ r, step s = .refused r) ↔
    ∀ (i : Instr) (rest : List Byte), i.wf = true → i.mode = s.codeMode → s.fetchBytes ≠ encode i ++ rest

/-! ## Exceptions and the VM exit -/

/-- R81 to R85, R121: #UD exactly for the five causes, in every VMX state and at every privilege level. -/
def Obligations.InvalidOpcodeExactlyForTheFiveCauses : Prop :=
  ∀ (f : VmxonForm) (s : State), exec (.vmxon f) s = .fault .ud ↔
    (∃ rm, f.operand = .register rm) ∨ s.cr0.getLsbD 0 = false ∨ s.cr4.getLsbD 13 = false ∨
      s.rflags.getLsbD 17 = true ∨ (s.eferLma = true ∧ s.csL = false)

/-- R122: #GP(0) exactly for the causes of the table, behind #UD; its error code is always 0. CR0 and CR4 are tested by
the predicate the implementation fixes (R4, R87). -/
def Obligations.GeneralProtectionExactlyForTheTableCauses : Prop :=
  ∀ (f : VmxonForm) (s : State),
    (∀ c, exec (.vmxon f) s = .fault (.gp c) → c = 0#32) ∧
    (exec (.vmxon f) s = .fault (.gp 0#32) ↔
      Recognized f s ∧
        ((s.vmx = .root ∧ 0 < s.cpl.toNat) ∨
         (s.vmx = .off ∧
          (0 < s.cpl.toNat ∨ s.a20mMode = true ∨
           cr0Cr4Supported s.cfg s.cr0 s.cr4 = false ∨
           s.featureControl.getLsbD 0 = false ∨
           (s.smx = true ∧ s.featureControl.getLsbD 1 = false) ∨
           (s.smx = false ∧ s.featureControl.getLsbD 2 = false) ∨
           s.segCheck (operandSegment f) (s.effectiveAddress f) 8 = some (.gp 0#32)))))

/-- R123: #SS(0) exactly at the operand read through SS: outside 64-bit mode beyond the limit or unusable, in 64-bit
mode non-canonical; its error code is always 0. Which offsets lie beyond the limit is what the input `SegCheck` says
(R31, R44), by the limit of R16 where the configuration takes that for the last offset. Two points are the model's
reading: byte `k` is at the offset `ea + k` as a number, which does not wrap (log 14, DEDUCED), and in 64-bit mode at
`ea + k` wrapping (log 15, DEDUCED). -/
def Obligations.StackFaultExactlyThroughSs : Prop :=
  ∀ (f : VmxonForm) (s : State),
    (∀ c, exec (.vmxon f) s = .fault (.ss c) → c = 0#32) ∧
    (exec (.vmxon f) s = .fault (.ss 0#32) ↔
      Recognized f s ∧ s.vmx = .off ∧ Permitted s ∧ operandSegment f = .ss ∧
        ((s.is64 = false ∧
          ((∃ k < 8, s.insideLimit .ss ((s.effectiveAddress f).toNat + k) = false) ∨ s.seg.ss.unusable = true)) ∨
         (s.is64 = true ∧
          ∃ k < 8, canonical s.cfg.linearAddrWidth (s.effectiveAddress f + BitVec.ofNat 64 k) = false))) ∧
    (s.cfg.segCheck = .lastOffset →
      ∀ offset, s.insideLimit .ss offset = false ↔ s.seg.ss.limit.toNat < offset)

/-- R124, R129: #PF exactly at the operand read, only where the segment test passes, with the code `Translate` gave and
the linear address of the byte it refused; of several bytes refused, the one at the lowest linear address, so that the
fault of the lower-addressed page is the one reported, also for an operand that wraps around the top (log 15). -/
def Obligations.PageFaultExactlyAtTheLowestUntranslatedByte : Prop :=
  ∀ (f : VmxonForm) (s : State) (c : BitVec 32) (la : Word64), exec (.vmxon f) s = .fault (.pf c la) ↔
    Recognized f s ∧ s.vmx = .off ∧ Permitted s ∧
      s.segCheck (operandSegment f) (s.effectiveAddress f) 8 = none ∧
      (∃ k < 8, la = s.linearAddr (operandSegment f) (s.effectiveAddress f + BitVec.ofNat 64 k)) ∧
      s.translate la .read = .error ⟨c, la⟩ ∧
      ∀ k < 8, ∀ q, s.translate (s.linearAddr (operandSegment f) (s.effectiveAddress f + BitVec.ofNat 64 k)) .read =
        .error q → la.toNat ≤ (s.linearAddr (operandSegment f) (s.effectiveAddress f + BitVec.ofNat 64 k)).toNat

/-- R109: a VM exit exactly in VMX non-root operation, at every privilege level, behind #UD only. -/
def Obligations.VmExitExactlyInNonRootOperation : Prop :=
  ∀ (f : VmxonForm) (s : State), exec (.vmxon f) s = .fault .vmExit ↔ Recognized f s ∧ s.vmx = .nonRoot

/-- R8: one execution gives one of the eight outcomes, and is never refused. -/
def Obligations.OutcomeIsOneOfTheEight : Prop :=
  ∀ (f : VmxonForm) (s : State),
    exec (.vmxon f) s = .fault .ud ∨ exec (.vmxon f) s = .fault (.gp 0#32) ∨
    exec (.vmxon f) s = .fault (.ss 0#32) ∨ (∃ c la, exec (.vmxon f) s = .fault (.pf c la)) ∨
    exec (.vmxon f) s = .fault .vmExit ∨
    ∃ t, exec (.vmxon f) s = .next t ∧
      ((t.rflags = s.rflags &&& ~~~0x8D5#64 ∧ s.vmx = .off ∧ t.vmx = .root) ∨
       (t.rflags = (s.rflags &&& ~~~0x8D5#64) ||| 0x1#64 ∧ t.vmx = s.vmx) ∨
       (t.rflags = (s.rflags &&& ~~~0x8D5#64) ||| 0x40#64 ∧ t.vmInstructionError = 15#32 ∧ t.vmx = s.vmx))

/-! ## Completion -/

/-- R111, with R106 to R108: in VMX root operation at CPL 0 VMXON completes with VMfail(15): VMfailInvalid with no
current VMCS, VMfailValid(15) with one, and nothing else changes. The second clause is the spec's own derivation, from
R97 and R108: right after a successful VMXON there is no current VMCS, so a second one completes with VMfailInvalid. -/
def Obligations.RootOperationCompletesWithVmfail : Prop :=
  (∀ (f : VmxonForm) (s : State), Recognized f s → s.vmx = .root → s.cpl = 0#2 →
    exec (.vmxon f) s =
      if s.currentVmcs = 0xFFFFFFFFFFFFFFFF#64 then
        .next { s with rflags := (s.rflags &&& ~~~0x8D5#64) ||| 0x1#64, rip := s.nextRip f.length }
      else
        .next { s with
          rflags := (s.rflags &&& ~~~0x8D5#64) ||| 0x40#64, rip := s.nextRip f.length, vmInstructionError := 15#32 }) ∧
  (∀ (f g : VmxonForm) (s t : State), s.vmx = .off → exec (.vmxon f) s = .next t → t.vmx = .root →
    (∀ rm, g.operand ≠ .register rm) →
    exec (.vmxon g) t =
      .next { t with rflags := (t.rflags &&& ~~~0x8D5#64) ||| 0x1#64, rip := t.nextRip g.length })

/-- R110: in VMX root operation above CPL 0 VMXON raises #GP(0), whatever A20M, CR0, CR4, IA32_FEATURE_CONTROL and the
operand hold. -/
def Obligations.RootOperationAboveCplZeroFaults : Prop :=
  ∀ (f : VmxonForm) (s : State), Recognized f s → s.vmx = .root → s.cpl ≠ 0#2 →
    exec (.vmxon f) s = .fault (.gp 0#32)

/-- R93: a pointer that is misaligned, beyond the physical-address width, or above 32 bits where IA32_VMX_BASIC[48] is
1, completes with VMfailInvalid (R106); any other goes on to the revision word (R94), which then decides (R95). That
the usable pointers with IA32_VMX_BASIC[48] = 1 are the multiples of 4096 below 2^min(32, PHYS_ADDR_WIDTH) is the spec's
own derivation. `draws`, the model's own counter (log 8), may end at any value. -/
def Obligations.RejectedPointerCompletesWithVmfailInvalid : Prop :=
  ∀ (f : VmxonForm) (s : State) (pas : List Nat), Recognized f s → s.vmx = .off → Permitted s → OperandAt f s pas →
    let rejected := pointerAt s pas % 4096 ≠ 0 ∨ 2 ^ s.cfg.physAddrWidth ≤ pointerAt s pas ∨
      (s.cfg.vmxBasic48 = true ∧ 2 ^ 32 ≤ pointerAt s pas)
    (rejected →
      ∃ d, exec (.vmxon f) s =
        .next { s with rflags := (s.rflags &&& ~~~0x8D5#64) ||| 0x1#64, rip := s.nextRip f.length, draws := d }) ∧
    (¬rejected →
      ((∃ t, exec (.vmxon f) s = .next t ∧ t.vmx = .root) ↔
        revisionAt s (pointerAt s pas) = s.cfg.vmcsRevisionId.toNat)) ∧
    (s.cfg.vmxBasic48 = true →
      (¬rejected ↔ pointerAt s pas % 4096 = 0 ∧ pointerAt s pas < 2 ^ min 32 s.cfg.physAddrWidth))

/-- R95: a revision word that is not the processor's identifier, or has bit 31 set, completes with VMfailInvalid
(R106). That the one accepted word is the identifier with bit 31 clear is the spec's own derivation. `draws`, the
model's own counter (log 8), may end at any value. -/
def Obligations.RejectedRevisionCompletesWithVmfailInvalid : Prop :=
  (∀ (f : VmxonForm) (s : State) (pas : List Nat) (rev : BitVec 32), Recognized f s → s.vmx = .off → Permitted s →
    OperandAt f s pas → usablePointer s.cfg (pointerAt s pas) → rev.toNat = revisionAt s (pointerAt s pas) →
    (rev.extractLsb' 0 31 ≠ s.cfg.vmcsRevisionId ∨ rev.getLsbD 31 = true) →
    ∃ d, exec (.vmxon f) s =
      .next { s with rflags := (s.rflags &&& ~~~0x8D5#64) ||| 0x1#64, rip := s.nextRip f.length, draws := d }) ∧
  (∀ (rev : BitVec 32) (c : Config),
    ¬(rev.extractLsb' 0 31 ≠ c.vmcsRevisionId ∨ rev.getLsbD 31 = true) ↔ rev = c.vmcsRevisionId.setWidth 32)

/-- R97 to R101, R103 to R105: where everything R152 asks for holds, VMXON enters VMX root operation, and these are all
its effects. `draws`, the model's own counter (log 8), may end at any value. -/
def Obligations.ReadyEntryCompletesWithVmsucceed : Prop :=
  ∀ (f : VmxonForm) (s : State) (addr : Word64), EntryReady f s addr.toNat →
    ∃ d, exec (.vmxon f) s =
      .next { s with
        currentVmcs  := 0xFFFFFFFFFFFFFFFF#64
        vmx          := .root
        vmxonPtr     := addr
        initBlocked  := true
        a20mMode     := false
        a20mBlocked  := true
        monitorArmed := false
        rtitTraceEn  := if s.cfg.ptSupported = true ∧ s.cfg.ptAllowedInVmx = false then false else s.rtitTraceEn
        rflags       := s.rflags &&& ~~~0x8D5#64
        rip          := s.nextRip f.length
        draws        := d }

/-- R152, the spec's own derivation: outside VMX operation VMXON enters VMX root operation exactly where all thirteen
conditions hold. Where the operand's bytes are is the model's reading (log 14, 15, 16). -/
def Obligations.EntryHappensExactlyWhenReady : Prop :=
  ∀ (f : VmxonForm) (s : State), s.vmx = .off →
    ((∃ t, exec (.vmxon f) s = .next t ∧ t.vmx = .root) ↔ ∃ addr, EntryReady f s addr)

/-! ## What changes and what does not -/

/-- R112: the flags of every completion, by the outcome it belongs to. -/
def Obligations.StatusFlagsFollowTheOutcome : Prop :=
  ∀ (f : VmxonForm) (s t : State), exec (.vmxon f) s = .next t →
    t.rflags.getLsbD 2 = false ∧ t.rflags.getLsbD 4 = false ∧ t.rflags.getLsbD 7 = false ∧
    t.rflags.getLsbD 11 = false ∧
    (s.vmx = .off → t.vmx = .root → t.rflags.getLsbD 0 = false ∧ t.rflags.getLsbD 6 = false) ∧
    (s.vmx = .off → t.vmx ≠ .root → t.rflags.getLsbD 0 = true ∧ t.rflags.getLsbD 6 = false) ∧
    (s.vmx = .root → s.currentVmcs = 0xFFFFFFFFFFFFFFFF#64 →
      t.rflags.getLsbD 0 = true ∧ t.rflags.getLsbD 6 = false) ∧
    (s.vmx = .root → s.currentVmcs ≠ 0xFFFFFFFFFFFFFFFF#64 →
      t.rflags.getLsbD 0 = false ∧ t.rflags.getLsbD 6 = true ∧ t.vmInstructionError = 15#32)

/-- R112: VMXON reads no status flag: two states that differ in the six status flags only have the same outcome. -/
def Obligations.OldStatusFlagsNeverMatter : Prop :=
  ∀ (i : Instr) (s : State) (r : Word64), r &&& ~~~0x8D5#64 = s.rflags &&& ~~~0x8D5#64 →
    exec i { s with rflags := r } = exec i s

/-- R116: what VMXON leaves unchanged whenever it completes: on every completion the registers, modes, memory and the
other bits of RFLAGS; on every completion that does not enter VMX operation also the fields of a success; the error
field but for VMfailValid. -/
def Obligations.CompletionLeavesTheRestUnchanged : Prop :=
  ∀ (f : VmxonForm) (s t : State), exec (.vmxon f) s = .next t →
    (t.regs = s.regs ∧ t.seg = s.seg ∧ t.cr0 = s.cr0 ∧ t.cr2 = s.cr2 ∧ t.cr4 = s.cr4 ∧ t.eferLma = s.eferLma ∧
      t.featureControl = s.featureControl ∧ t.csL = s.csL ∧ t.csD = s.csD ∧ t.cpl = s.cpl ∧ t.smx = s.smx ∧
      t.a20mMode = s.a20mMode ∧ t.mem = s.mem) ∧
    (∀ k, k ∉ [0, 2, 4, 6, 7, 11] → t.rflags.getLsbD k = s.rflags.getLsbD k) ∧
    (¬(s.vmx = .off ∧ t.vmx = .root) →
      t.vmx = s.vmx ∧ t.currentVmcs = s.currentVmcs ∧ t.vmxonPtr = s.vmxonPtr ∧ t.initBlocked = s.initBlocked ∧
      t.a20mBlocked = s.a20mBlocked ∧ t.monitorArmed = s.monitorArmed ∧ t.rtitTraceEn = s.rtitTraceEn) ∧
    (¬(s.vmx = .root ∧ s.currentVmcs ≠ 0xFFFFFFFFFFFFFFFF#64) → t.vmInstructionError = s.vmInstructionError)

/-- The model's own fields (log 4, 8): no step changes the parameters, and the draw counter grows by the 8 operand
bytes, by 4 more where the revision word is read, and by nothing in VMX operation. -/
def Obligations.StepKeepsTheParametersAndCountsTheDraws : Prop :=
  ∀ s t : State, step s = .next t →
    t.cfg = s.cfg ∧ (s.vmx = .root → t.draws = s.draws) ∧
    (s.vmx = .off → t.draws = s.draws + 8 ∨ t.draws = s.draws + 12) ∧
    (s.vmx = .off → t.vmx = .root → t.draws = s.draws + 12)

/-- R50, R102, R116: every byte of memory reads as before, but for the 4096 bytes at the VMXON pointer of a completion
that enters VMX operation, each of which then reads as a draw. -/
def Obligations.MemoryReadsAsBeforeOutsideTheOwnedRegion : Prop :=
  ∀ (f : VmxonForm) (s t : State), exec (.vmxon f) s = .next t → ∀ pa : Nat,
    (s.vmx = .off ∧ t.vmx = .root →
      (t.vmxonPtr.toNat ≤ pa ∧ pa < t.vmxonPtr.toNat + 4096 →
        t.presentByte pa = none ∧ ∀ slot, t.readByte slot pa = Config.freeByte slot) ∧
      (¬(t.vmxonPtr.toNat ≤ pa ∧ pa < t.vmxonPtr.toNat + 4096) →
        t.presentByte pa = s.presentByte pa ∧ ∀ slot, t.readByte slot pa = s.readByte slot pa)) ∧
    (¬(s.vmx = .off ∧ t.vmx = .root) →
      t.presentByte pa = s.presentByte pa ∧ ∀ slot, t.readByte slot pa = s.readByte slot pa)

/-- R114: on every completion the instruction pointer advances by the length, at the width of the mode. -/
def Obligations.InstructionPointerAdvancesByTheLength : Prop :=
  ∀ (f : VmxonForm) (s t : State), exec (.vmxon f) s = .next t →
    (s.eferLma = true ∧ s.csL = true → t.rip.toNat = (s.rip.toNat + f.length) % 2 ^ 64) ∧
    (¬(s.eferLma = true ∧ s.csL = true) → s.csD = true → t.rip.toNat % 2 ^ 32 = (s.rip.toNat + f.length) % 2 ^ 32) ∧
    (¬(s.eferLma = true ∧ s.csL = true) → s.csD = false → t.rip.toNat % 2 ^ 16 = (s.rip.toNat + f.length) % 2 ^ 16)

/-- R42, R109, R111: in VMX operation the operand is never read: registers, segments, memory, the parameters and the
draws change nothing of the outcome but themselves. -/
def Obligations.OperandIsNotReadInVmxOperation : Prop :=
  ∀ (f : VmxonForm) (s : State) (regs : Vector Word64 16) (seg : SegmentFile) (mem : Memory) (cfg : Config)
    (draws : Nat), s.vmx ≠ .off →
    (∀ e, exec (.vmxon f) s = .fault e →
      exec (.vmxon f) { s with regs := regs, seg := seg, mem := mem, cfg := cfg, draws := draws } = .fault e) ∧
    (∀ t, exec (.vmxon f) s = .next t →
      exec (.vmxon f) { s with regs := regs, seg := seg, mem := mem, cfg := cfg, draws := draws } =
        .next { t with regs := regs, seg := seg, mem := mem, cfg := cfg, draws := draws })

/-- R136: the one transition between VMX modes that a step makes is Off to Root. -/
def Obligations.StepMovesFromOffToRootOnly : Prop :=
  ∀ s t : State, step s = .next t →
    (t.vmx = s.vmx ∨ (s.vmx = .off ∧ t.vmx = .root)) ∧ s.vmx ≠ .nonRoot ∧ s.cpl = 0#2 ∧ t.cpl = 0#2 ∧
    (t.vmx ≠ s.vmx → t.initBlocked = true ∧ t.a20mBlocked = true ∧ t.currentVmcs = 0xFFFFFFFFFFFFFFFF#64)

/-! ## The operand: segment, effective address, bytes -/

/-- R68: 16-bit addressing, by the `mod` and `rm` fields of the ModRM byte. -/
def Obligations.SixteenBitEffectiveAddress : Prop :=
  ∀ (s : State) (f : VmxonForm) (mod : BitVec 2) (rm : BitVec 3) (tail : List Byte), f.wf = true →
    f.addrSize = .a16 → mod ≠ 3#2 → f.operand.toBytes = (mod ++ 6#3 ++ rm) :: tail →
    let bx : BitVec 16 := (s.gpr 3#4).setWidth 16
    let bp : BitVec 16 := (s.gpr 5#4).setWidth 16
    let si : BitVec 16 := (s.gpr 6#4).setWidth 16
    let di : BitVec 16 := (s.gpr 7#4).setWidth 16
    let base : BitVec 16 :=
      if rm = 0#3 then bx + si else if rm = 1#3 then bx + di else if rm = 2#3 then bp + si
      else if rm = 3#3 then bp + di else if rm = 4#3 then si else if rm = 5#3 then di else if rm = 6#3 then bp else bx
    (mod = 0#2 ∧ rm = 6#3 →
      ∃ lo hi, tail = [lo, hi] ∧ s.effectiveAddress f = (hi ++ lo : BitVec 16).setWidth 64 ∧
        defaultSegment f.rex f.operand = .ds) ∧
    (¬(mod = 0#2 ∧ rm = 6#3) →
      ∃ disp, dispField16 mod tail = some disp ∧ s.effectiveAddress f = (base + disp).setWidth 64 ∧
        defaultSegment f.rex f.operand = if rm = 2#3 ∨ rm = 3#3 ∨ rm = 6#3 then .ss else .ds)

/-- R69: 32-bit addressing outside 64-bit mode, by the ModRM and SIB bytes. -/
def Obligations.ThirtyTwoBitEffectiveAddress : Prop :=
  ∀ (s : State) (f : VmxonForm) (mod : BitVec 2) (rm : BitVec 3) (tail : List Byte), f.wf = true → f.mode ≠ .m64 →
    f.addrSize = .a32 → mod ≠ 3#2 → f.operand.toBytes = (mod ++ 6#3 ++ rm) :: tail →
    let reg : BitVec 3 → BitVec 32 := fun n => (s.gpr (n.setWidth 4)).setWidth 32
    (rm ≠ 4#3 → ¬(mod = 0#2 ∧ rm = 5#3) →
      ∃ disp, dispField32 mod tail = some disp ∧ s.effectiveAddress f = (reg rm + disp).setWidth 64 ∧
        defaultSegment f.rex f.operand = if rm = 5#3 then .ss else .ds) ∧
    (mod = 0#2 ∧ rm = 5#3 →
      ∃ disp, disp32Field tail = some disp ∧ s.effectiveAddress f = disp.setWidth 64 ∧
        defaultSegment f.rex f.operand = .ds) ∧
    (rm = 4#3 →
      ∃ (sib : Byte) (tail' : List Byte), tail = sib :: tail' ∧
        (let scale := sib.extractLsb' 6 2
         let index := sib.extractLsb' 3 3
         let base := sib.extractLsb' 0 3
         let scaled : BitVec 32 := if index = 4#3 then 0#32 else reg index * 2#32 ^ scale.toNat
         (mod = 0#2 ∧ base = 5#3 →
           ∃ disp, disp32Field tail' = some disp ∧ s.effectiveAddress f = (scaled + disp).setWidth 64 ∧
             defaultSegment f.rex f.operand = .ds) ∧
         (¬(mod = 0#2 ∧ base = 5#3) →
           ∃ disp, dispField32 mod tail' = some disp ∧
             s.effectiveAddress f = (reg base + scaled + disp).setWidth 64 ∧
             defaultSegment f.rex f.operand = if base = 4#3 ∨ base = 5#3 then .ss else .ds)))

/-- R74: 64-bit mode addressing, with REX, RIP-relative, and the 32-bit form of the others under `67`. -/
def Obligations.SixtyFourBitModeEffectiveAddress : Prop :=
  ∀ (s : State) (f : VmxonForm) (mod : BitVec 2) (rm : BitVec 3) (tail : List Byte), f.wf = true → f.mode = .m64 →
    mod ≠ 3#2 → f.operand.toBytes = (mod ++ 6#3 ++ rm) :: tail →
    let cut : Word64 → Word64 := fun v => if f.prefixes.contains .addressSize then (v.setWidth 32).setWidth 64 else v
    let rexBBit : BitVec 1 := BitVec.ofBool (f.rex.any (fun r => r.b))
    let rexXBit : BitVec 1 := BitVec.ofBool (f.rex.any (fun r => r.x))
    let reg : BitVec 4 → Word64 := fun n => cut (s.gpr n)
    (rm ≠ 4#3 → ¬(mod = 0#2 ∧ rm = 5#3) →
      ∃ disp, dispField32 mod tail = some disp ∧
        s.effectiveAddress f = cut (reg (rexBBit ++ rm) + disp.signExtend 64) ∧
        defaultSegment f.rex f.operand = if rexBBit ++ rm = 5#4 then .ss else .ds) ∧
    (mod = 0#2 ∧ rm = 5#3 → f.prefixes.contains .addressSize = false →
      ∃ disp, disp32Field tail = some disp ∧
        s.effectiveAddress f = s.rip + BitVec.ofNat 64 f.length + disp.signExtend 64 ∧
        defaultSegment f.rex f.operand = .ds) ∧
    (rm = 4#3 →
      ∃ (sib : Byte) (tail' : List Byte), tail = sib :: tail' ∧
        (let scale := sib.extractLsb' 6 2
         let index : BitVec 4 := rexXBit ++ sib.extractLsb' 3 3
         let base : BitVec 4 := rexBBit ++ sib.extractLsb' 0 3
         let scaled : Word64 := if index = 4#4 then 0#64 else reg index * 2#64 ^ scale.toNat
         (mod = 0#2 ∧ sib.extractLsb' 0 3 = 5#3 →
           ∃ disp, disp32Field tail' = some disp ∧ s.effectiveAddress f = cut (scaled + disp.signExtend 64) ∧
             defaultSegment f.rex f.operand = .ds) ∧
         (¬(mod = 0#2 ∧ sib.extractLsb' 0 3 = 5#3) →
           ∃ disp, dispField32 mod tail' = some disp ∧
             s.effectiveAddress f = cut (reg base + scaled + disp.signExtend 64) ∧
             defaultSegment f.rex f.operand = if base = 4#4 ∨ base = 5#4 then .ss else .ds)))

/-- The model's reading of R74 (log 28, DEDUCED): a RIP-relative sum is cut to 32 bits under `67`, like every other. -/
def Obligations.RipRelativeUnderTheAddressSizeOverride : Prop :=
  ∀ (s : State) (f : VmxonForm) (d : BitVec 32), f.wf = true → f.mode = .m64 →
    f.prefixes.contains .addressSize = true → f.operand = .displacement32 d →
    s.effectiveAddress f = ((s.rip + BitVec.ofNat 64 f.length + d.signExtend 64).setWidth 32).setWidth 64 ∧
    defaultSegment f.rex f.operand = .ds

/-- R70: the mode of the code (the D bit is the model's field, log 2), the address size by mode and `67`, and registers
used in the effective address are read at that size: two states whose registers agree in the low bits, and that agree
in the instruction pointer, give the same address. -/
def Obligations.RegistersAreReadAtTheAddressSize : Prop :=
  (∀ s : State, (s.eferLma = true ∧ s.csL = true → s.codeMode = .m64) ∧
    (¬(s.eferLma = true ∧ s.csL = true) → s.csD = true → s.codeMode = .m32) ∧
    (¬(s.eferLma = true ∧ s.csL = true) → s.csD = false → s.codeMode = .m16)) ∧
  (∀ f : VmxonForm, f.addrSize.bits =
    match f.mode, f.prefixes.contains .addressSize with
    | .m64, false => 64
    | .m64, true  => 32
    | .m32, false => 32
    | .m32, true  => 16
    | .m16, false => 16
    | .m16, true  => 32) ∧
  (∀ (f : VmxonForm) (s t : State), s.rip = t.rip →
    (∀ n, (s.gpr n).setWidth f.addrSize.bits = (t.gpr n).setWidth f.addrSize.bits) →
    f.wf = true → s.effectiveAddress f = t.effectiveAddress f ∧ (s.effectiveAddress f).toNat < 2 ^ f.addrSize.bits)

/-- R65, R71: the segment is the default one unless a segment-override prefix stands there; in 64-bit mode only FS and
GS overrides count. -/
def Obligations.SegmentOverrideReplacesTheDefault : Prop :=
  ∀ f : VmxonForm, f.wf = true →
    ((∀ r, LegacyPrefix.segment r ∉ f.prefixes) → operandSegment f = defaultSegment f.rex f.operand) ∧
    (∀ r, LegacyPrefix.segment r ∈ f.prefixes →
      (f.mode ≠ .m64 ∨ r = .fs ∨ r = .gs → operandSegment f = r) ∧
      (f.mode = .m64 → r ≠ .fs → r ≠ .gs → operandSegment f = defaultSegment f.rex f.operand))

/-- R44: the segment test outside 64-bit mode. Which offsets lie inside a limit is what the input `SegCheck` says (R31),
the limit of R16 where the configuration takes that for the last offset. That the offsets of the bytes are the numbers
`ea + k`, so that under that configuration an operand wrapping around the top is outside, is the model's reading
(log 14, DEDUCED). -/
def Obligations.SegmentTestOutside64BitMode : Prop :=
  ∀ (s : State) (r : SegReg) (ea : Word64) (n : Nat), s.is64 = false → 0 < n →
    (s.segCheck r ea n = some (.ss 0#32) ↔
      r = .ss ∧ ((∃ k < n, s.insideLimit r (ea.toNat + k) = false) ∨ (s.segment r).unusable = true)) ∧
    (s.segCheck r ea n = some (.gp 0#32) ↔
      r ≠ .ss ∧ ((∃ k < n, s.insideLimit r (ea.toNat + k) = false) ∨
        (r ≠ .cs ∧ (s.segment r).unusable = true) ∨ (s.segment r).execOnly = true)) ∧
    (s.segCheck r ea n = none ∨ s.segCheck r ea n = some (.ss 0#32) ∨ s.segCheck r ea n = some (.gp 0#32)) ∧
    (s.cfg.segCheck = .lastOffset →
      ∀ offset, s.insideLimit r offset = false ↔ (s.segment r).limit.toNat < offset)

/-- R45 in the model's reading (log 16, DEDUCED; R43 for the base): in 64-bit mode the segment test is the canonical test
of the linear address of every byte, the base of FS and GS included and the sum wrapping (log 15): bits 63 down to
`LINEAR_ADDR_WIDTH - 1` are all equal. -/
def Obligations.CanonicalTestIn64BitMode : Prop :=
  ∀ (s : State) (r : SegReg) (ea : Word64) (n : Nat), s.is64 = true →
    let width := match s.cfg.linearAddrWidth with
      | .w48 => 48
      | .w57 => 57
    let base : Word64 := if r = .fs then s.seg.fs.base else if r = .gs then s.seg.gs.base else 0#64
    let good : Word64 → Prop := fun la => ∀ j < 64, width - 1 ≤ j → la.getLsbD j = la.getLsbD 63
    (s.segCheck r ea n = none ↔ ∀ k < n, good (base + ea + BitVec.ofNat 64 k)) ∧
    (s.segCheck r ea n ≠ none → s.segCheck r ea n = some (if r = .ss then .ss 0#32 else .gp 0#32))

/-- R87: `Cr0Cr4Supported`, where the implementation fixes it by the four capability MSRs: a bit that is 1 in FIXED0 must
be 1, a bit that is 0 in FIXED1 must be 0. R87 calls this a default of the parameter. -/
def Obligations.FixedBitsAreTheDefaultOfCr0Cr4Supported : Prop :=
  ∀ (s : State) (a b c d : Word64), s.cfg.cr0Cr4Supported = .fixedBits a b c d →
    (cr0Cr4Supported s.cfg s.cr0 s.cr4 = true ↔
      (∀ k < 64, (a.getLsbD k = true → s.cr0.getLsbD k = true) ∧ (b.getLsbD k = false → s.cr0.getLsbD k = false)) ∧
      (∀ k < 64, (c.getLsbD k = true → s.cr4.getLsbD k = true) ∧ (d.getLsbD k = false → s.cr4.getLsbD k = false)))

/-- R4: `Cr0Cr4Supported` is any "predicate on two 64-bit values": every one is that of some configuration (log 5). -/
def Obligations.EveryPredicateOnCr0AndCr4IsAConfiguration : Prop :=
  ∀ (supported : Word64 → Word64 → Bool) (c : Config),
    ∃ p : CrPredicate, ∀ cr0 cr4, cr0Cr4Supported { c with cr0Cr4Supported := p } cr0 cr4 = supported cr0 cr4

/-- R30, R47, R50, R51: what a data read of one byte gives. In the region the processor owns, and where there is no
memory, it is a draw; where the model holds a byte, that byte; in memory nothing was written to, one unspecified byte,
the same each time (log 7). -/
def Obligations.ByteReadsByWhatIsAtTheAddress : Prop :=
  ∀ (s : State) (pa slot : Nat), s.a20mMode = false →
    (s.vmx ≠ .off → s.vmxonPtr.toNat ≤ pa → pa < s.vmxonPtr.toNat + 4096 →
      s.readByte slot pa = Config.freeByte slot) ∧
    (¬(s.vmx ≠ .off ∧ s.vmxonPtr.toNat ≤ pa ∧ pa < s.vmxonPtr.toNat + 4096) →
      (∀ b, Memory.read s.mem pa = some b → s.readByte slot pa = b) ∧
      (Memory.read s.mem pa = none →
        (pa < 2 ^ s.cfg.physAddrWidth ∧ (∃ r ∈ s.cfg.physPopulated, r.base ≤ pa ∧ pa < r.base + r.size) →
          s.readByte slot pa = Config.initialByte pa) ∧
        (¬(pa < 2 ^ s.cfg.physAddrWidth ∧ (∃ r ∈ s.cfg.physPopulated, r.base ≤ pa ∧ pa < r.base + r.size)) →
          s.readByte slot pa = Config.freeByte slot)))

/-- R41, R43, R47: the operand and the revision word are little-endian, where memory holds their bytes. That byte `k` of
the operand is at `ea + k` wrapping is the model's reading (log 15, DEDUCED). -/
def Obligations.MemoryReadsAreLittleEndian : Prop :=
  (∀ (s : State) (r : SegReg) (ea : Word64) (pa : Fin 8 → Nat) (b : Fin 8 → Byte),
    s.segCheck r ea 8 = none →
    (∀ k : Fin 8, s.translate (s.linearAddr r (ea + BitVec.ofNat 64 k)) .read = .ok (pa k)) →
    (∀ k : Fin 8, s.presentByte (pa k) = some (b k)) →
    s.memRead r ea 8 = .ok (b 7 ++ b 6 ++ b 5 ++ b 4 ++ b 3 ++ b 2 ++ b 1 ++ b 0 : BitVec 64).toNat) ∧
  (∀ (s : State) (addr : Nat) (b0 b1 b2 b3 : Byte),
    s.presentByte addr = some b0 → s.presentByte (addr + 1) = some b1 → s.presentByte (addr + 2) = some b2 →
    s.presentByte (addr + 3) = some b3 → s.physRead addr 4 = (b3 ++ b2 ++ b1 ++ b0 : BitVec 32).toNat)

/-- R46: with paging off `Translate` is the identity, for every linear address, also at or above `2^PHYS_ADDR_WIDTH`
(log 25, DEDUCED: the rule's first sentence asks for an address below it); with paging on, under a legal configuration,
it gives a physical address below `2^PHYS_ADDR_WIDTH` or a page fault at the address asked about. -/
def Obligations.TranslationIsTheIdentityWithoutPagingAndBelowTheWidthWithIt : Prop :=
  ∀ (s : State) (la : Word64) (a : Access),
    (s.cr0.getLsbD 31 = false → s.translate la a = .ok la.toNat) ∧
    (s.cr0.getLsbD 31 = true → s.cfg.legal = true →
      (∃ pa, s.translate la a = .ok pa ∧ pa < 2 ^ s.cfg.physAddrWidth) ∨ ∃ c, s.translate la a = .error ⟨c, la⟩)

/-- R89 to R91: which values of IA32_FEATURE_CONTROL[2:0] let VMXON pass, the other conditions of R152 items 7 to 9
being met: 101 and 111 outside SMX operation, 011 and 111 in it. -/
def Obligations.FeatureControlValuesThatPass : Prop :=
  ∀ (f : VmxonForm) (s : State), Recognized f s → s.vmx = .off → s.cpl = 0#2 → s.a20mMode = false →
    cr0Cr4Supported s.cfg s.cr0 s.cr4 = true →
    let passes := s.featureControl.extractLsb' 0 3 ∈ (if s.smx then [0b011#3, 0b111#3] else [0b101#3, 0b111#3])
    (¬passes → exec (.vmxon f) s = .fault (.gp 0#32)) ∧
    (passes → exec (.vmxon f) s = .fault (.gp 0#32) →
      s.segCheck (operandSegment f) (s.effectiveAddress f) 8 = some (.gp 0#32))

/-! ## Reset, invariant, outside world -/

/-- R33: the reset values the spec gives; R16: the segments'. R151, the spec's own derivation: a VMXON from reset
raises #UD by two causes at once, and with PE and VMXE set and nothing else done a memory form raises #GP(0). -/
def Obligations.ResetValuesAndFirstVmxon : Prop :=
  (State.reset.cr0 = 0x60000010#64 ∧ State.reset.cr4 = 0#64 ∧ State.reset.rflags = 0x2#64 ∧
    State.reset.eferLma = false ∧ State.reset.csL = false ∧ State.reset.cpl = 0#2 ∧ State.reset.vmx = .off ∧
    State.reset.a20mMode = false ∧ State.reset.a20mBlocked = false ∧ State.reset.initBlocked = false ∧
    State.reset.smx = false ∧ State.reset.monitorArmed = false ∧ State.reset.featureControl = 0#64 ∧
    State.reset.rtitTraceEn = false ∧ State.reset.rip = 0xFFF0#64) ∧
  (∀ r : SegReg, (State.reset.segment r).unusable = false ∧ (State.reset.segment r).limit = 0xFFFF#32 ∧
    (State.reset.segment r).base = if r = .cs then 0xFFFF0000#64 else 0#64) ∧
  (∀ f : VmxonForm, exec (.vmxon f) State.reset = .fault .ud ∧
    exec (.vmxon f) { State.reset with cr0 := State.reset.cr0 ||| 1#64 } = .fault .ud ∧
    exec (.vmxon f) { State.reset with cr4 := State.reset.cr4 ||| 0x2000#64 } = .fault .ud) ∧
  (∀ f : VmxonForm, (∀ rm, f.operand ≠ .register rm) →
    exec (.vmxon f)
      { State.reset with cr0 := State.reset.cr0 ||| 1#64, cr4 := State.reset.cr4 ||| 0x2000#64 } =
        .fault (.gp 0#32))

/-- The reset state meets the invariant, whatever the chip's configuration is. -/
def Obligations.ResetMeetsTheInvariant : Prop := State.reset.Inv

/-- R4, R23, R24, R30, R97 to R103: every step keeps the invariant, from every state that meets it. -/
def Obligations.StepKeepsTheInvariant : Prop :=
  ∀ s t : State, s.Inv → step s = .next t → t.Inv

/-- R23, R50, R160: what the outside world does between steps keeps the invariant too; once A20M is blocked the pin
cannot bring A20M mode back. -/
def Obligations.OutsideWorldKeepsTheInvariant : Prop :=
  ∀ s : State, s.Inv →
    (∀ asserted, (s.driveA20m asserted).Inv ∧ (s.a20mBlocked = true → (s.driveA20m asserted).a20mMode = false) ∧
      (s.a20mBlocked = false → (s.driveA20m asserted).a20mMode = asserted)) ∧
    (∀ (pa : Nat) (v : Byte) (t : State), s.softwareStore pa v = .next t → t.Inv)

/-- R50, R102, R155: after a completion that enters VMX operation, outside A20M mode, a software store to one of the
4096 bytes at the VMXON pointer is refused. Elsewhere a store is made where there is memory and changes no other byte;
the spec is silent on a store where there is none, and log 31 settles it. -/
def Obligations.OwnedRegionRefusesSoftwareStores : Prop :=
  ∀ (f : VmxonForm) (s t : State), s.vmx = .off → exec (.vmxon f) s = .next t → t.vmx = .root →
    ∀ (pa : Nat) (v : Byte),
      (t.vmxonPtr.toNat ≤ pa ∧ pa < t.vmxonPtr.toNat + 4096 →
        t.softwareStore pa v = .refused .storeToVmxonRegion) ∧
      (¬(t.vmxonPtr.toNat ≤ pa ∧ pa < t.vmxonPtr.toNat + 4096) → physPopulated t.cfg pa = true →
        ∃ u, t.softwareStore pa v = .next u ∧ u.presentByte pa = some v ∧
          ∀ q, q ≠ pa → u.presentByte q = t.presentByte q ∧ ∀ slot, u.readByte slot q = t.readByte slot q)

/-- The model's choice (log 31): a software store outside the region the processor owns is refused at or above
2^PHYS_ADDR_WIDTH, and changes nothing below it where there is no memory, address-range monitoring included (log 35). -/
def Obligations.StoresWhereThereIsNoMemory : Prop :=
  ∀ (s : State) (pa : Nat) (v : Byte), s.a20mMode = false →
    ¬(s.vmx ≠ .off ∧ s.vmxonPtr.toNat ≤ pa ∧ pa < s.vmxonPtr.toNat + 4096) →
    (2 ^ s.cfg.physAddrWidth ≤ pa → s.softwareStore pa v = .refused .storeBeyondPhysicalWidth) ∧
    (pa < 2 ^ s.cfg.physAddrWidth → Memory.read s.mem pa = none → physPopulated s.cfg pa = false →
      s.softwareStore pa v = .next s)

/-- R47, R49: where no byte that is read is a draw, the free bytes play no part: the number of draws made before changes
the outcome in nothing but that number. -/
def Obligations.FreeBytesMatterOnlyWhereAByteIsAbsent : Prop :=
  ∀ (f : VmxonForm) (s t : State) (pas : List Nat) (d : Nat), s.vmx = .off → OperandAt f s pas →
    (∀ pa ∈ pas, s.drawn pa = false) → (∀ k < 4, s.drawn (pointerAt s pas + k) = false) →
    exec (.vmxon f) s = .next t →
    exec (.vmxon f) { s with draws := d } = .next { t with draws := d + (t.draws - s.draws) }

/-! ## Runs (R159) -/

/-- R159, the spec's decision D27: a run ends normally exactly where every execution is `Done`, only the last one leaves
the instruction pointer at the end address, and the steps allowed are enough. -/
def Obligations.RunEndsWhereTheEndAddressIsReached : Prop :=
  ∀ (endAddress : Word64) (n : Nat) (s t : State), run endAddress n s = .ended t ↔
    ∃ (k : Nat) (at_ : Nat → State), k < n ∧ at_ 0 = s ∧ (∀ i ≤ k, step (at_ i) = .next (at_ (i + 1))) ∧
      (∀ i < k, (at_ (i + 1)).rip ≠ endAddress) ∧ at_ (k + 1) = t ∧ t.rip = endAddress

/-- R159: a run ends at the first fault or VM exit, with the state it was raised in; a refused step ends it likewise. -/
def Obligations.RunStopsAtTheFirstFaultOrRefusal : Prop :=
  ∀ (endAddress : Word64) (n : Nat) (s u : State),
    (∀ e, run endAddress n s = .fault e u ↔
      ∃ (k : Nat) (at_ : Nat → State), k < n ∧ at_ 0 = s ∧
        (∀ i < k, step (at_ i) = .next (at_ (i + 1)) ∧ (at_ (i + 1)).rip ≠ endAddress) ∧
        at_ k = u ∧ step u = .fault e) ∧
    (∀ r, run endAddress n s = .refused r u ↔
      ∃ (k : Nat) (at_ : Nat → State), k < n ∧ at_ 0 = s ∧
        (∀ i < k, step (at_ i) = .next (at_ (i + 1)) ∧ (at_ (i + 1)).rip ≠ endAddress) ∧
        at_ k = u ∧ step u = .refused r)

/-- The invariant holds at the end of every run from a state that meets it, however the run ends. -/
def Obligations.RunKeepsTheInvariant : Prop :=
  ∀ (endAddress : Word64) (n : Nat) (s u : State), s.Inv →
    (run endAddress n s = .ended u ∨ run endAddress n s = .running u ∨
      (∃ e, run endAddress n s = .fault e u) ∨ ∃ r, run endAddress n s = .refused r u) → u.Inv

/-! ## Vectors -/

/-- R120: the vector and the error code of every exception VMXON raises; a VM exit has neither. -/
def Obligations.RaisedExceptionsHaveTheTableVectors : Prop :=
  ∀ (i : Instr) (s : State) (e : Fault), exec i s = .fault e →
    (e = .ud ∧ e.vector = some 6 ∧ e.errorCode = none) ∨
    (e = .gp 0#32 ∧ e.vector = some 13 ∧ e.errorCode = some 0#32) ∨
    (e = .ss 0#32 ∧ e.vector = some 12 ∧ e.errorCode = some 0#32) ∨
    (∃ c la, e = .pf c la ∧ e.vector = some 14 ∧ e.errorCode = some c) ∨
    (e = .vmExit ∧ e.vector = none ∧ e.errorCode = none)
end

