-- ==== Sys2Proof/Laws/CrPredicate.lean ====
section
/-! SUPPORT. The data that stands for the parameter `Cr0Cr4Supported` (R4) leaves no predicate out. -/

namespace Sys2Proof.Machine

/-- The bits of `v` must be 1 and all others 0: only `v` itself. -/
theorem fixedBitsHold_self (x v : Word64) : fixedBitsHold x v v = decide (x = v) := by
  by_cases h : x = v
  · subst h; simp [fixedBitsHold]
  · have : ¬(x &&& v = v ∧ x &&& ~~~v = 0#64) := by
      rintro ⟨h1, h2⟩
      refine h (BitVec.eq_of_getLsbD_eq fun i hi => ?_)
      have a := congrArg (fun b : Word64 => b.getLsbD i) h1
      have b := congrArg (fun b : Word64 => b.getLsbD i) h2
      simp only [BitVec.getLsbD_and, BitVec.getLsbD_not, hi, decide_true, Bool.true_and, BitVec.getLsbD_zero] at a b
      revert a b
      cases x.getLsbD i <;> cases v.getLsbD i <;> simp
    simpa [fixedBitsHold, h] using this

/-- None of the listed pairs of values. -/
def noneOf : List (Word64 × Word64) → CrPredicate
  | [] => .fixedBits 0 (~~~0) 0 (~~~0)
  | v :: rest => .both (.negated (.fixedBits v.1 v.1 v.2 v.2)) (noneOf rest)

theorem holds_noneOf (cr0 cr4 : Word64) (vs : List (Word64 × Word64)) :
    CrPredicate.holds cr0 cr4 (noneOf vs) = !vs.contains (cr0, cr4) := by
  induction vs with
  | nil => simp [noneOf, CrPredicate.holds, fixedBitsHold]
  | cons v rest ih =>
    simp only [noneOf, CrPredicate.holds, ih, fixedBitsHold_self, List.contains_cons]
    rw [Bool.not_or]
    congr 2

end Sys2Proof.Machine
end

