-- ==== Sys2Proof/Laws/Decode.lean ====
section
/-! SUPPORT. The parts of the decoder undo the parts of the encoder, and the other way round. -/

namespace Sys2Proof

/-! ## Fields of a byte -/

theorem modRm_fields (mod : BitVec 2) (rm : BitVec 3) :
    (modRm mod rm).extractLsb' 6 2 = mod ∧ (modRm mod rm).extractLsb' 3 3 = 6#3 ∧
      (modRm mod rm).extractLsb' 0 3 = rm := by
  revert mod rm; decide

theorem modRm_of_fields (m : Byte) (h : m.extractLsb' 3 3 = 6#3) :
    m = modRm (m.extractLsb' 6 2) (m.extractLsb' 0 3) := by
  revert m; decide

theorem sibByte_fields (scale : BitVec 2) (index base : BitVec 3) :
    (sibByte scale index base).extractLsb' 6 2 = scale ∧ (sibByte scale index base).extractLsb' 3 3 = index ∧
      (sibByte scale index base).extractLsb' 0 3 = base := by
  revert scale index base; decide

theorem sibByte_of_fields (s : Byte) :
    s = sibByte (s.extractLsb' 6 2) (s.extractLsb' 3 3) (s.extractLsb' 0 3) := by
  revert s; decide

@[simp] theorem rex?_toByte (r : Rex) : rex? r.toByte = some r := by
  obtain ⟨w, r, x, b⟩ := r
  revert w r x b; decide

theorem rex?_some {b : Byte} {r : Rex} (h : rex? b = some r) : b = r.toByte := by
  have key : ∀ b : Byte, b.extractLsb' 4 4 = 4#4 →
      b = Rex.toByte { w := b.getLsbD 3, r := b.getLsbD 2, x := b.getLsbD 1, b := b.getLsbD 0 } := by decide
  unfold rex? at h
  split at h
  · rename_i hb
    rw [← Option.some.inj h]
    exact key b hb
  · cases h

/-! ## Prefixes -/

@[simp] theorem legacyPrefix?_toByte (p : LegacyPrefix) : legacyPrefix? p.toByte = some p := by
  rcases p with _ | r | _
  · rfl
  · cases r <;> rfl
  · rfl

@[simp] theorem refusedPrefix_toByte (p : LegacyPrefix) : refusedPrefix p.toByte = false := by
  rcases p with _ | r | _
  · rfl
  · cases r <;> rfl
  · rfl

theorem legacyPrefix?_some {b : Byte} {p : LegacyPrefix} (h : legacyPrefix? b = some p) : b = p.toByte := by
  unfold legacyPrefix? at h
  split_ifs at h <;> cases h <;> assumption

/-- A byte that is neither an admitted nor a refused prefix ends the prefixes. -/
theorem takePrefixes_map (ps : List LegacyPrefix) {b : Byte} (bs : List Byte) (hr : refusedPrefix b = false)
    (hl : legacyPrefix? b = none) :
    takePrefixes (ps.map LegacyPrefix.toByte ++ b :: bs) = .ok (ps, b :: bs) := by
  induction ps with
  | nil => simp [takePrefixes, hr, hl]
  | cons p ps ih => simp [takePrefixes, ih]

/-- What the prefixes and the rest were read from. -/
theorem takePrefixes_ok {bs rest : List Byte} {ps : List LegacyPrefix} (h : takePrefixes bs = .ok (ps, rest)) :
    bs = ps.map LegacyPrefix.toByte ++ rest := by
  induction bs generalizing ps with
  | nil => cases h
  | cons b bs ih =>
    simp only [takePrefixes] at h
    split at h
    · cases h
    · split at h
      · cases h; rfl
      · rename_i p hp
        split at h
        · rename_i ps' rest' hps
          cases h
          simp [legacyPrefix?_some hp, ih hps]
        · cases h

/-- A refused prefix byte behind admitted ones ends in an error. -/
theorem takePrefixes_refused (ps : List LegacyPrefix) {b : Byte} (bs : List Byte) (hr : refusedPrefix b = true) :
    takePrefixes (ps.map LegacyPrefix.toByte ++ b :: bs) = .error (.prefixNotAdmitted b) := by
  induction ps with
  | nil => simp [takePrefixes, hr]
  | cons p ps ih => simp [takePrefixes, ih]

@[simp] theorem checkPrefixes_ok {ps : List LegacyPrefix} : checkPrefixes ps = .ok () ↔ prefixesWf ps = true := by
  unfold checkPrefixes
  split_ifs with h1 h2
  · simp [prefixesWf, h1]
  · simp [h2]
  · simp [h2]

/-! ## REX -/

@[simp] theorem takeRex_some (r : Rex) (bs : List Byte) : takeRex .m64 (r.toByte :: bs) = (some r, bs) := by
  simp [takeRex]

/-- The opcode byte `0F` is no REX byte. -/
@[simp] theorem takeRex_none (mode : CodeMode) (bs : List Byte) : takeRex mode (0x0F#8 :: bs) = (none, 0x0F#8 :: bs) := by
  cases mode <;> rfl

/-- Outside 64-bit mode there is no REX byte. -/
theorem takeRex_legacy {mode : CodeMode} (h : mode ≠ .m64) (bs : List Byte) : takeRex mode bs = (none, bs) := by
  cases mode <;> first | rfl | exact absurd rfl h

/-- What the REX byte and the rest were read from. -/
theorem takeRex_eq (mode : CodeMode) (bs : List Byte) :
    bs = (takeRex mode bs).1.toList.map Rex.toByte ++ (takeRex mode bs).2 ∧ rexWf mode (takeRex mode bs).1 = true := by
  cases mode
  · exact ⟨rfl, rfl⟩
  · exact ⟨rfl, rfl⟩
  · cases bs with
    | nil => exact ⟨rfl, rfl⟩
    | cons b rest =>
      cases h : rex? b with
      | none => simp [takeRex, h, rexWf]
      | some r => simp [takeRex, rexWf, rex?_some h]

/-! ## Displacements -/

/-- A field of a concatenation that lies in its low part. -/
theorem extract_append_low {n m : Nat} (a : BitVec n) (b : BitVec m) (s k : Nat) (h : s + k ≤ m) :
    (a ++ b).extractLsb' s k = b.extractLsb' s k := by
  ext i hi
  simp [BitVec.getLsbD_append, show s + i < m by omega]

/-- A field of a concatenation that lies in its high part. -/
theorem extract_append_high {n m : Nat} (a : BitVec n) (b : BitVec m) (s k : Nat) :
    (a ++ b).extractLsb' (m + s) k = a.extractLsb' s k := by
  ext i hi
  simp [BitVec.getLsbD_append, show ¬m + s + i < m by omega, show m + s + i - m = s + i by omega]

/-- The whole of a value is its field at 0. -/
theorem extract_whole {n : Nat} (a : BitVec n) : a.extractLsb' 0 n = a := by
  ext i hi
  simp [← BitVec.getLsbD_eq_getElem]

@[simp] theorem take16_bytes16 (d : BitVec 16) (rest : List Byte) : take16 (bytes16 d ++ rest) = .ok (d, rest) := by
  have : d.extractLsb' 8 8 ++ d.extractLsb' 0 8 = d := by
    ext i hi
    simp only [BitVec.getElem_append, BitVec.getElem_extractLsb']
    split <;> simp [← BitVec.getLsbD_eq_getElem]
    congr 1; omega
  simp [take16, bytes16, this]

@[simp] theorem take32_bytes32 (d : BitVec 32) (rest : List Byte) : take32 (bytes32 d ++ rest) = .ok (d, rest) := by
  have : d.extractLsb' 24 8 ++ d.extractLsb' 16 8 ++ d.extractLsb' 8 8 ++ d.extractLsb' 0 8 = d := by
    ext i hi
    simp only [BitVec.getElem_append, BitVec.getElem_extractLsb']
    split_ifs <;> simp [← BitVec.getLsbD_eq_getElem] <;> (congr 1; omega)
  simp [take32, bytes32, this]

theorem take16_ok {bs rest : List Byte} {d : BitVec 16} (h : take16 bs = .ok (d, rest)) : bs = bytes16 d ++ rest := by
  unfold take16 at h
  split at h
  · rename_i b0 b1 r
    cases h
    have h0 : (b1 ++ b0).extractLsb' 0 8 = b0 :=
      (extract_append_low b1 b0 0 8 (by omega)).trans (extract_whole b0)
    have h1 : (b1 ++ b0).extractLsb' 8 8 = b1 := (extract_append_high b1 b0 0 8).trans (extract_whole b1)
    simp [bytes16, h0, h1]
  · cases h

theorem take32_ok {bs rest : List Byte} {d : BitVec 32} (h : take32 bs = .ok (d, rest)) : bs = bytes32 d ++ rest := by
  unfold take32 at h
  split at h
  · rename_i b0 b1 b2 b3 r
    cases h
    have h0 : (b3 ++ b2 ++ b1 ++ b0).extractLsb' 0 8 = b0 :=
      (extract_append_low (b3 ++ b2 ++ b1) b0 0 8 (by omega)).trans (extract_whole b0)
    have h1 : (b3 ++ b2 ++ b1 ++ b0).extractLsb' 8 8 = b1 :=
      (extract_append_high (b3 ++ b2 ++ b1) b0 0 8).trans
        ((extract_append_low (b3 ++ b2) b1 0 8 (by omega)).trans (extract_whole b1))
    have h2 : (b3 ++ b2 ++ b1 ++ b0).extractLsb' 16 8 = b2 :=
      (extract_append_high (b3 ++ b2 ++ b1) b0 8 8).trans ((extract_append_high (b3 ++ b2) b1 0 8).trans
        ((extract_append_low b3 b2 0 8 (by omega)).trans (extract_whole b2)))
    have h3 : (b3 ++ b2 ++ b1 ++ b0).extractLsb' 24 8 = b3 :=
      (extract_append_high (b3 ++ b2 ++ b1) b0 16 8).trans ((extract_append_high (b3 ++ b2) b1 8 8).trans
        ((extract_append_high b3 b2 0 8).trans (extract_whole b3)))
    simp [bytes32, h0, h1, h2, h3]
  · cases h

theorem takeDisp_toBytes {w : Nat} {read : List Byte → Except DecodeError (BitVec w × List Byte)}
    {write : BitVec w → List Byte} (h : ∀ d rest, read (write d ++ rest) = .ok (d, rest)) (d : Disp w)
    (rest : List Byte) : takeDisp read d.toMod (d.toBytes write ++ rest) = .ok (d, rest) := by
  cases d <;> simp [takeDisp, Disp.toMod, Disp.toBytes, h]

theorem takeDisp_ok {w : Nat} {read : List Byte → Except DecodeError (BitVec w × List Byte)}
    {write : BitVec w → List Byte} (h : ∀ bs d rest, read bs = .ok (d, rest) → bs = write d ++ rest)
    {mod : BitVec 2} (hm : mod ≠ 3#2) {bs rest : List Byte} {d : Disp w} (hd : takeDisp read mod bs = .ok (d, rest)) :
    mod = d.toMod ∧ bs = d.toBytes write ++ rest := by
  unfold takeDisp at hd
  split_ifs at hd with h0 h1
  · cases hd; exact ⟨h0, rfl⟩
  · split at hd <;> cases hd
    exact ⟨h1, rfl⟩
  · split at hd <;> cases hd
    rename_i e
    have key : ∀ m : BitVec 2, m ≠ 3#2 → m ≠ 0#2 → m ≠ 1#2 → m = 2#2 := by decide
    exact ⟨key mod hm h0 h1, h _ _ _ e⟩

@[simp] theorem Disp.toMod_ne_three {w : Nat} (d : Disp w) : d.toMod ≠ 3#2 := by
  cases d <;> simp [Disp.toMod]

@[simp] theorem Disp.toMod_eq_zero {w : Nat} (d : Disp w) : d.toMod = 0#2 ↔ d = .absent := by
  cases d <;> simp [Disp.toMod]

/-! ## Operands -/

@[simp] theorem base16OfRm_toRm (b : Base16) : base16OfRm b.toRm = b := by cases b <;> rfl

@[simp] theorem toRm_base16OfRm (rm : BitVec 3) : (base16OfRm rm).toRm = rm := by revert rm; decide

theorem Base16.toRm_eq_six {b : Base16} : b.toRm = 6#3 ↔ b = .bp := by cases b <;> decide

/-- The opcode bytes and a well-formed operand are read back. -/
theorem takeOpcode_toBytes (size : AddrSize) (op : Operand) (h : op.wf size = true) (rest : List Byte) :
    takeOpcode size (0x0F#8 :: 0xC7#8 :: op.toBytes ++ rest) = .ok (op, rest) := by
  have f := modRm_fields
  have d16 := takeDisp_toBytes take16_bytes16
  have d32 := takeDisp_toBytes take32_bytes32
  cases op with
  | register rm => simp [takeOpcode, Operand.toBytes, f, takeOperand]
  | absolute16 d =>
    cases size <;> simp [Operand.wf] at h
    simp [takeOpcode, Operand.toBytes, f, takeOperand, takeOperand16]
  | based16 b d =>
    cases size <;> simp [Operand.wf] at h
    have hb : ¬(d.toMod = 0#2 ∧ b.toRm = 6#3) := by
      rw [Disp.toMod_eq_zero, Base16.toRm_eq_six]; tauto
    simp only [takeOpcode, Operand.toBytes, List.cons_append, f, takeOperand, takeOperand16, d16, hb, and_self,
      if_true, if_false, Disp.toMod_ne_three, base16OfRm_toRm]
  | displacement32 d =>
    cases size <;> simp [Operand.wf] at h <;>
      simp [takeOpcode, Operand.toBytes, f, takeOperand, takeOperand32]
  | based rm d =>
    have hb : rm ≠ 4#3 ∧ ¬(d.toMod = 0#2 ∧ rm = 5#3) := by
      rw [Disp.toMod_eq_zero]; cases size <;> simp [Operand.wf] at h <;> tauto
    cases size <;> simp [Operand.wf] at h <;>
      simp only [takeOpcode, Operand.toBytes, List.cons_append, f, takeOperand, takeOperand32, d32, hb, and_self,
        if_true, if_false, Disp.toMod_ne_three]
  | sib scale index base d =>
    have hb : ¬(d.toMod = 0#2 ∧ base = 5#3) := by
      rw [Disp.toMod_eq_zero]; cases size <;> simp [Operand.wf] at h <;> tauto
    cases size <;> simp [Operand.wf] at h <;>
      simp only [takeOpcode, Operand.toBytes, List.cons_append, f, takeOperand, takeOperand32, takeSib, sibByte_fields,
        d32, hb, and_self, if_true, if_false, Disp.toMod_ne_three]
  | sibNoBase scale index d =>
    cases size <;> simp [Operand.wf] at h <;>
      simp [takeOpcode, Operand.toBytes, f, takeOperand, takeOperand32, takeSib, sibByte_fields]

/-- What a 16-bit operand was read from. -/
theorem takeOperand16_ok {mod : BitVec 2} {rm : BitVec 3} {bs rest : List Byte} {op : Operand} (hm : mod ≠ 3#2)
    (h : takeOperand16 mod rm bs = .ok (op, rest)) :
    modRm mod rm :: bs = op.toBytes ++ rest ∧ op.wf .a16 = true := by
  unfold takeOperand16 at h
  split at h
  · rename_i hc
    split at h <;> cases h
    rename_i e
    simp [Operand.toBytes, Operand.wf, hc.1, hc.2, take16_ok e]
  · rename_i hc
    split at h <;> cases h
    rename_i d e
    obtain ⟨h1, h2⟩ := takeDisp_ok (fun _ _ _ => take16_ok) hm e
    subst h1 h2
    rw [Disp.toMod_eq_zero] at hc
    refine ⟨by simp [Operand.toBytes], ?_⟩
    have : ¬(base16OfRm rm = .bp ∧ d = .absent) := by
      rw [← Base16.toRm_eq_six, toRm_base16OfRm]; tauto
    simpa [Operand.wf, imp_iff_not_or, not_and_or] using this

/-- What an operand behind a SIB byte was read from. -/
theorem takeSib_ok {mod : BitVec 2} {bs rest : List Byte} {op : Operand} {size : AddrSize} (hs : size ≠ .a16)
    (hm : mod ≠ 3#2) (h : takeSib mod bs = .ok (op, rest)) :
    modRm mod 4#3 :: bs = op.toBytes ++ rest ∧ op.wf size = true := by
  unfold takeSib at h
  split at h
  · cases h
  · rename_i s bs
    have es := sibByte_of_fields s
    split at h
    · rename_i hc
      split at h <;> cases h
      rename_i e
      rw [hc.2] at es
      refine ⟨?_, by simp [Operand.wf, hs]⟩
      simp [Operand.toBytes, hc.1, take32_ok e, ← es]
    · rename_i hc
      split at h <;> cases h
      rename_i d e
      obtain ⟨h1, h2⟩ := takeDisp_ok (fun _ _ _ => take32_ok) hm e
      subst h1 h2
      rw [Disp.toMod_eq_zero] at hc
      refine ⟨by simp [Operand.toBytes, ← es], ?_⟩
      simp [Operand.wf, hs]
      tauto

/-- What a 32-bit or 64-bit operand was read from. -/
theorem takeOperand32_ok {mod : BitVec 2} {rm : BitVec 3} {bs rest : List Byte} {op : Operand} {size : AddrSize}
    (hs : size ≠ .a16) (hm : mod ≠ 3#2) (h : takeOperand32 mod rm bs = .ok (op, rest)) :
    modRm mod rm :: bs = op.toBytes ++ rest ∧ op.wf size = true := by
  unfold takeOperand32 at h
  split at h
  · rename_i hr
    subst hr
    exact takeSib_ok hs hm h
  · rename_i hr
    split at h
    · rename_i hc
      split at h <;> cases h
      rename_i e
      simp [Operand.toBytes, Operand.wf, hs, hc.1, hc.2, take32_ok e]
    · rename_i hc
      split at h <;> cases h
      rename_i d e
      obtain ⟨h1, h2⟩ := takeDisp_ok (fun _ _ _ => take32_ok) hm e
      subst h1 h2
      rw [Disp.toMod_eq_zero] at hc
      refine ⟨by simp [Operand.toBytes], ?_⟩
      simp [Operand.wf, hs, hr]
      tauto

/-- What the opcode bytes and the operand were read from. -/
theorem takeOpcode_ok {size : AddrSize} {bs rest : List Byte} {op : Operand}
    (h : takeOpcode size bs = .ok (op, rest)) :
    bs = 0x0F#8 :: 0xC7#8 :: op.toBytes ++ rest ∧ op.wf size = true := by
  unfold takeOpcode at h
  split at h
  · rename_i o1 o2 m bs
    split at h
    · rename_i hc
      obtain ⟨rfl, rfl, hm⟩ := hc
      have em := modRm_of_fields m hm
      have key : m :: bs = op.toBytes ++ rest ∧ op.wf size = true := by
        unfold takeOperand at h
        split at h
        · rename_i h3
          cases h
          rw [h3] at em
          exact ⟨by simp [Operand.toBytes, ← em], rfl⟩
        · rename_i h3
          rw [em]
          split at h
          · exact takeOperand16_ok h3 h
          · exact takeOperand32_ok (by simp) h3 h
          · exact takeOperand32_ok (by simp) h3 h
      exact ⟨by simp [key.1], key.2⟩
    · cases h
  · split at h <;> cases h
  · split at h <;> cases h
  · cases h

/-- R67: an operand's bytes are the ModRM byte, the SIB byte and the displacement. -/
theorem Operand.toBytes_length (op : Operand) : op.toBytes.length = 1 + op.sibSize + op.dispSize := by
  cases op with
  | register => rfl
  | absolute16 => rfl
  | based16 b d => cases d <;> rfl
  | displacement32 => rfl
  | based rm d => cases d <;> rfl
  | sib s i b d => cases d <;> rfl
  | sibNoBase => rfl

end Sys2Proof
end

