-- ==== Sys2Proof/Laws/Flags.lean ====
section
/-! SUPPORT. What writing the status flags does, bit by bit. A bit `r.getLsbD i` at a literal place is written `r[i]`,
the form simp turns it into. -/

namespace Sys2Proof.Machine

variable (f g : StatusFlags) (r : Word64)

@[simp] theorem flagBit_getElem (v : Bool) (p i : Nat) (h : i < 64) : (flagBit v p)[i] = (v && decide (i = p)) := by
  cases v
  · simp [flagBit]
  · simp only [flagBit, if_true, BitVec.getElem_shiftLeft, Bool.true_and]
    by_cases hp : i < p
    · simp [hp, hp.ne]
    · simp [hp, BitVec.getElem_one, Nat.sub_eq_zero_iff_le]
      omega

/-- A bit that is no status flag keeps its value. -/
theorem writeStatus_other (i : Nat) (h : statusMask.getLsbD i = false) :
    (writeStatus f r).getLsbD i = r.getLsbD i := by
  by_cases hi : i < 64
  · have h' : ∀ p ∈ [0, 2, 4, 6, 7, 11], i ≠ p := by
      intro p hp e
      subst e
      revert h
      fin_cases hp <;> decide
    simp only [List.mem_cons, List.not_mem_nil, or_false, forall_eq_or_imp, forall_eq] at h'
    rw [BitVec.getLsbD_eq_getElem hi] at h
    simp [writeStatus, StatusFlags.bits, BitVec.getLsbD_eq_getElem hi, h, h']
  · simp [BitVec.getLsbD_of_ge, not_lt.1 hi]

@[simp] theorem writeStatus_cf : (writeStatus f r)[0] = f.cf := by simp [writeStatus, StatusFlags.bits, statusMask]

@[simp] theorem writeStatus_pf : (writeStatus f r)[2] = f.pf := by simp [writeStatus, StatusFlags.bits, statusMask]

@[simp] theorem writeStatus_af : (writeStatus f r)[4] = f.af := by simp [writeStatus, StatusFlags.bits, statusMask]

@[simp] theorem writeStatus_zf : (writeStatus f r)[6] = f.zf := by simp [writeStatus, StatusFlags.bits, statusMask]

@[simp] theorem writeStatus_sf : (writeStatus f r)[7] = f.sf := by simp [writeStatus, StatusFlags.bits, statusMask]

@[simp] theorem writeStatus_of : (writeStatus f r)[11] = f.of := by simp [writeStatus, StatusFlags.bits, statusMask]

/-- RFLAGS.VM is no status flag. -/
@[simp] theorem writeStatus_vm : (writeStatus f r)[17] = r[17] := by simp [writeStatus, StatusFlags.bits, statusMask]

/-- Writing the status flags does not depend on their old values. -/
@[simp] theorem writeStatus_writeStatus : writeStatus f (writeStatus g r) = writeStatus f r := by
  have hg : g.bits &&& ~~~statusMask = 0#64 := by
    obtain ⟨a, b, c, d, e, o⟩ := g
    revert a b c d e o
    decide
  unfold writeStatus
  rw [BitVec.and_or_distrib_right, BitVec.and_assoc, BitVec.and_self, hg, BitVec.or_zero]

end Sys2Proof.Machine
end

