-- ==== Sys2Proof/Laws/State.lean ====
section
/-! SUPPORT. One lemma per field per update of the state, true by rfl. -/

namespace Sys2Proof.Machine

variable (s : State)

/-! ## `State.drew` -/

@[simp] theorem State.drew_regs (n : Nat) : (s.drew n).regs = s.regs := rfl
@[simp] theorem State.drew_rip (n : Nat) : (s.drew n).rip = s.rip := rfl
@[simp] theorem State.drew_rflags (n : Nat) : (s.drew n).rflags = s.rflags := rfl
@[simp] theorem State.drew_cr0 (n : Nat) : (s.drew n).cr0 = s.cr0 := rfl
@[simp] theorem State.drew_cr2 (n : Nat) : (s.drew n).cr2 = s.cr2 := rfl
@[simp] theorem State.drew_cr4 (n : Nat) : (s.drew n).cr4 = s.cr4 := rfl
@[simp] theorem State.drew_eferLma (n : Nat) : (s.drew n).eferLma = s.eferLma := rfl
@[simp] theorem State.drew_featureControl (n : Nat) : (s.drew n).featureControl = s.featureControl := rfl
@[simp] theorem State.drew_rtitTraceEn (n : Nat) : (s.drew n).rtitTraceEn = s.rtitTraceEn := rfl
@[simp] theorem State.drew_csL (n : Nat) : (s.drew n).csL = s.csL := rfl
@[simp] theorem State.drew_csD (n : Nat) : (s.drew n).csD = s.csD := rfl
@[simp] theorem State.drew_seg (n : Nat) : (s.drew n).seg = s.seg := rfl
@[simp] theorem State.drew_cpl (n : Nat) : (s.drew n).cpl = s.cpl := rfl
@[simp] theorem State.drew_vmx (n : Nat) : (s.drew n).vmx = s.vmx := rfl
@[simp] theorem State.drew_currentVmcs (n : Nat) : (s.drew n).currentVmcs = s.currentVmcs := rfl
@[simp] theorem State.drew_vmxonPtr (n : Nat) : (s.drew n).vmxonPtr = s.vmxonPtr := rfl
@[simp] theorem State.drew_vmInstructionError (n : Nat) : (s.drew n).vmInstructionError = s.vmInstructionError := rfl
@[simp] theorem State.drew_initBlocked (n : Nat) : (s.drew n).initBlocked = s.initBlocked := rfl
@[simp] theorem State.drew_a20mMode (n : Nat) : (s.drew n).a20mMode = s.a20mMode := rfl
@[simp] theorem State.drew_a20mBlocked (n : Nat) : (s.drew n).a20mBlocked = s.a20mBlocked := rfl
@[simp] theorem State.drew_smx (n : Nat) : (s.drew n).smx = s.smx := rfl
@[simp] theorem State.drew_monitorArmed (n : Nat) : (s.drew n).monitorArmed = s.monitorArmed := rfl
@[simp] theorem State.drew_mem (n : Nat) : (s.drew n).mem = s.mem := rfl
@[simp] theorem State.drew_cfg (n : Nat) : (s.drew n).cfg = s.cfg := rfl
@[simp] theorem State.drew_draws (n : Nat) : (s.drew n).draws = s.draws + n := rfl

/-! ## `State.done` -/

@[simp] theorem State.done_regs (flags : StatusFlags) (len : Nat) : (s.done flags len).regs = s.regs := rfl
@[simp] theorem State.done_rip (flags : StatusFlags) (len : Nat) : (s.done flags len).rip = s.nextRip len := rfl
@[simp] theorem State.done_rflags (flags : StatusFlags) (len : Nat) : (s.done flags len).rflags = writeStatus flags s.rflags := rfl
@[simp] theorem State.done_cr0 (flags : StatusFlags) (len : Nat) : (s.done flags len).cr0 = s.cr0 := rfl
@[simp] theorem State.done_cr2 (flags : StatusFlags) (len : Nat) : (s.done flags len).cr2 = s.cr2 := rfl
@[simp] theorem State.done_cr4 (flags : StatusFlags) (len : Nat) : (s.done flags len).cr4 = s.cr4 := rfl
@[simp] theorem State.done_eferLma (flags : StatusFlags) (len : Nat) : (s.done flags len).eferLma = s.eferLma := rfl
@[simp] theorem State.done_featureControl (flags : StatusFlags) (len : Nat) : (s.done flags len).featureControl = s.featureControl := rfl
@[simp] theorem State.done_rtitTraceEn (flags : StatusFlags) (len : Nat) : (s.done flags len).rtitTraceEn = s.rtitTraceEn := rfl
@[simp] theorem State.done_csL (flags : StatusFlags) (len : Nat) : (s.done flags len).csL = s.csL := rfl
@[simp] theorem State.done_csD (flags : StatusFlags) (len : Nat) : (s.done flags len).csD = s.csD := rfl
@[simp] theorem State.done_seg (flags : StatusFlags) (len : Nat) : (s.done flags len).seg = s.seg := rfl
@[simp] theorem State.done_cpl (flags : StatusFlags) (len : Nat) : (s.done flags len).cpl = s.cpl := rfl
@[simp] theorem State.done_vmx (flags : StatusFlags) (len : Nat) : (s.done flags len).vmx = s.vmx := rfl
@[simp] theorem State.done_currentVmcs (flags : StatusFlags) (len : Nat) : (s.done flags len).currentVmcs = s.currentVmcs := rfl
@[simp] theorem State.done_vmxonPtr (flags : StatusFlags) (len : Nat) : (s.done flags len).vmxonPtr = s.vmxonPtr := rfl
@[simp] theorem State.done_vmInstructionError (flags : StatusFlags) (len : Nat) : (s.done flags len).vmInstructionError = s.vmInstructionError := rfl
@[simp] theorem State.done_initBlocked (flags : StatusFlags) (len : Nat) : (s.done flags len).initBlocked = s.initBlocked := rfl
@[simp] theorem State.done_a20mMode (flags : StatusFlags) (len : Nat) : (s.done flags len).a20mMode = s.a20mMode := rfl
@[simp] theorem State.done_a20mBlocked (flags : StatusFlags) (len : Nat) : (s.done flags len).a20mBlocked = s.a20mBlocked := rfl
@[simp] theorem State.done_smx (flags : StatusFlags) (len : Nat) : (s.done flags len).smx = s.smx := rfl
@[simp] theorem State.done_monitorArmed (flags : StatusFlags) (len : Nat) : (s.done flags len).monitorArmed = s.monitorArmed := rfl
@[simp] theorem State.done_mem (flags : StatusFlags) (len : Nat) : (s.done flags len).mem = s.mem := rfl
@[simp] theorem State.done_cfg (flags : StatusFlags) (len : Nat) : (s.done flags len).cfg = s.cfg := rfl
@[simp] theorem State.done_draws (flags : StatusFlags) (len : Nat) : (s.done flags len).draws = s.draws := rfl

/-! ## `State.enterVmx` -/

@[simp] theorem State.enterVmx_regs (addr : Word64) : (s.enterVmx addr).regs = s.regs := rfl
@[simp] theorem State.enterVmx_rip (addr : Word64) : (s.enterVmx addr).rip = s.rip := rfl
@[simp] theorem State.enterVmx_rflags (addr : Word64) : (s.enterVmx addr).rflags = s.rflags := rfl
@[simp] theorem State.enterVmx_cr0 (addr : Word64) : (s.enterVmx addr).cr0 = s.cr0 := rfl
@[simp] theorem State.enterVmx_cr2 (addr : Word64) : (s.enterVmx addr).cr2 = s.cr2 := rfl
@[simp] theorem State.enterVmx_cr4 (addr : Word64) : (s.enterVmx addr).cr4 = s.cr4 := rfl
@[simp] theorem State.enterVmx_eferLma (addr : Word64) : (s.enterVmx addr).eferLma = s.eferLma := rfl
@[simp] theorem State.enterVmx_featureControl (addr : Word64) : (s.enterVmx addr).featureControl = s.featureControl := rfl
@[simp] theorem State.enterVmx_rtitTraceEn (addr : Word64) : (s.enterVmx addr).rtitTraceEn = if s.cfg.ptSupported && !s.cfg.ptAllowedInVmx then false else s.rtitTraceEn := rfl
@[simp] theorem State.enterVmx_csL (addr : Word64) : (s.enterVmx addr).csL = s.csL := rfl
@[simp] theorem State.enterVmx_csD (addr : Word64) : (s.enterVmx addr).csD = s.csD := rfl
@[simp] theorem State.enterVmx_seg (addr : Word64) : (s.enterVmx addr).seg = s.seg := rfl
@[simp] theorem State.enterVmx_cpl (addr : Word64) : (s.enterVmx addr).cpl = s.cpl := rfl
@[simp] theorem State.enterVmx_vmx (addr : Word64) : (s.enterVmx addr).vmx = .root := rfl
@[simp] theorem State.enterVmx_currentVmcs (addr : Word64) : (s.enterVmx addr).currentVmcs = noCurrentVmcs := rfl
@[simp] theorem State.enterVmx_vmxonPtr (addr : Word64) : (s.enterVmx addr).vmxonPtr = addr := rfl
@[simp] theorem State.enterVmx_vmInstructionError (addr : Word64) : (s.enterVmx addr).vmInstructionError = s.vmInstructionError := rfl
@[simp] theorem State.enterVmx_initBlocked (addr : Word64) : (s.enterVmx addr).initBlocked = true := rfl
@[simp] theorem State.enterVmx_a20mMode (addr : Word64) : (s.enterVmx addr).a20mMode = s.a20mMode := rfl
@[simp] theorem State.enterVmx_a20mBlocked (addr : Word64) : (s.enterVmx addr).a20mBlocked = true := rfl
@[simp] theorem State.enterVmx_smx (addr : Word64) : (s.enterVmx addr).smx = s.smx := rfl
@[simp] theorem State.enterVmx_monitorArmed (addr : Word64) : (s.enterVmx addr).monitorArmed = false := rfl
@[simp] theorem State.enterVmx_mem (addr : Word64) : (s.enterVmx addr).mem = s.mem := rfl
@[simp] theorem State.enterVmx_cfg (addr : Word64) : (s.enterVmx addr).cfg = s.cfg := rfl
@[simp] theorem State.enterVmx_draws (addr : Word64) : (s.enterVmx addr).draws = s.draws := rfl

/-! ## `State.vmFailValid` -/

@[simp] theorem State.vmFailValid_regs (error : BitVec 32) (len : Nat) : (s.vmFailValid error len).regs = s.regs := rfl
@[simp] theorem State.vmFailValid_rip (error : BitVec 32) (len : Nat) : (s.vmFailValid error len).rip = s.nextRip len := rfl
@[simp] theorem State.vmFailValid_rflags (error : BitVec 32) (len : Nat) : (s.vmFailValid error len).rflags = writeStatus failValidFlags s.rflags := rfl
@[simp] theorem State.vmFailValid_cr0 (error : BitVec 32) (len : Nat) : (s.vmFailValid error len).cr0 = s.cr0 := rfl
@[simp] theorem State.vmFailValid_cr2 (error : BitVec 32) (len : Nat) : (s.vmFailValid error len).cr2 = s.cr2 := rfl
@[simp] theorem State.vmFailValid_cr4 (error : BitVec 32) (len : Nat) : (s.vmFailValid error len).cr4 = s.cr4 := rfl
@[simp] theorem State.vmFailValid_eferLma (error : BitVec 32) (len : Nat) : (s.vmFailValid error len).eferLma = s.eferLma := rfl
@[simp] theorem State.vmFailValid_featureControl (error : BitVec 32) (len : Nat) : (s.vmFailValid error len).featureControl = s.featureControl := rfl
@[simp] theorem State.vmFailValid_rtitTraceEn (error : BitVec 32) (len : Nat) : (s.vmFailValid error len).rtitTraceEn = s.rtitTraceEn := rfl
@[simp] theorem State.vmFailValid_csL (error : BitVec 32) (len : Nat) : (s.vmFailValid error len).csL = s.csL := rfl
@[simp] theorem State.vmFailValid_csD (error : BitVec 32) (len : Nat) : (s.vmFailValid error len).csD = s.csD := rfl
@[simp] theorem State.vmFailValid_seg (error : BitVec 32) (len : Nat) : (s.vmFailValid error len).seg = s.seg := rfl
@[simp] theorem State.vmFailValid_cpl (error : BitVec 32) (len : Nat) : (s.vmFailValid error len).cpl = s.cpl := rfl
@[simp] theorem State.vmFailValid_vmx (error : BitVec 32) (len : Nat) : (s.vmFailValid error len).vmx = s.vmx := rfl
@[simp] theorem State.vmFailValid_currentVmcs (error : BitVec 32) (len : Nat) : (s.vmFailValid error len).currentVmcs = s.currentVmcs := rfl
@[simp] theorem State.vmFailValid_vmxonPtr (error : BitVec 32) (len : Nat) : (s.vmFailValid error len).vmxonPtr = s.vmxonPtr := rfl
@[simp] theorem State.vmFailValid_vmInstructionError (error : BitVec 32) (len : Nat) : (s.vmFailValid error len).vmInstructionError = error := rfl
@[simp] theorem State.vmFailValid_initBlocked (error : BitVec 32) (len : Nat) : (s.vmFailValid error len).initBlocked = s.initBlocked := rfl
@[simp] theorem State.vmFailValid_a20mMode (error : BitVec 32) (len : Nat) : (s.vmFailValid error len).a20mMode = s.a20mMode := rfl
@[simp] theorem State.vmFailValid_a20mBlocked (error : BitVec 32) (len : Nat) : (s.vmFailValid error len).a20mBlocked = s.a20mBlocked := rfl
@[simp] theorem State.vmFailValid_smx (error : BitVec 32) (len : Nat) : (s.vmFailValid error len).smx = s.smx := rfl
@[simp] theorem State.vmFailValid_monitorArmed (error : BitVec 32) (len : Nat) : (s.vmFailValid error len).monitorArmed = s.monitorArmed := rfl
@[simp] theorem State.vmFailValid_mem (error : BitVec 32) (len : Nat) : (s.vmFailValid error len).mem = s.mem := rfl
@[simp] theorem State.vmFailValid_cfg (error : BitVec 32) (len : Nat) : (s.vmFailValid error len).cfg = s.cfg := rfl
@[simp] theorem State.vmFailValid_draws (error : BitVec 32) (len : Nat) : (s.vmFailValid error len).draws = s.draws := rfl

/-! ## `State.driveA20m` -/

@[simp] theorem State.driveA20m_regs (asserted : Bool) : (s.driveA20m asserted).regs = s.regs := rfl
@[simp] theorem State.driveA20m_rip (asserted : Bool) : (s.driveA20m asserted).rip = s.rip := rfl
@[simp] theorem State.driveA20m_rflags (asserted : Bool) : (s.driveA20m asserted).rflags = s.rflags := rfl
@[simp] theorem State.driveA20m_cr0 (asserted : Bool) : (s.driveA20m asserted).cr0 = s.cr0 := rfl
@[simp] theorem State.driveA20m_cr2 (asserted : Bool) : (s.driveA20m asserted).cr2 = s.cr2 := rfl
@[simp] theorem State.driveA20m_cr4 (asserted : Bool) : (s.driveA20m asserted).cr4 = s.cr4 := rfl
@[simp] theorem State.driveA20m_eferLma (asserted : Bool) : (s.driveA20m asserted).eferLma = s.eferLma := rfl
@[simp] theorem State.driveA20m_featureControl (asserted : Bool) : (s.driveA20m asserted).featureControl = s.featureControl := rfl
@[simp] theorem State.driveA20m_rtitTraceEn (asserted : Bool) : (s.driveA20m asserted).rtitTraceEn = s.rtitTraceEn := rfl
@[simp] theorem State.driveA20m_csL (asserted : Bool) : (s.driveA20m asserted).csL = s.csL := rfl
@[simp] theorem State.driveA20m_csD (asserted : Bool) : (s.driveA20m asserted).csD = s.csD := rfl
@[simp] theorem State.driveA20m_seg (asserted : Bool) : (s.driveA20m asserted).seg = s.seg := rfl
@[simp] theorem State.driveA20m_cpl (asserted : Bool) : (s.driveA20m asserted).cpl = s.cpl := rfl
@[simp] theorem State.driveA20m_vmx (asserted : Bool) : (s.driveA20m asserted).vmx = s.vmx := rfl
@[simp] theorem State.driveA20m_currentVmcs (asserted : Bool) : (s.driveA20m asserted).currentVmcs = s.currentVmcs := rfl
@[simp] theorem State.driveA20m_vmxonPtr (asserted : Bool) : (s.driveA20m asserted).vmxonPtr = s.vmxonPtr := rfl
@[simp] theorem State.driveA20m_vmInstructionError (asserted : Bool) : (s.driveA20m asserted).vmInstructionError = s.vmInstructionError := rfl
@[simp] theorem State.driveA20m_initBlocked (asserted : Bool) : (s.driveA20m asserted).initBlocked = s.initBlocked := rfl
@[simp] theorem State.driveA20m_a20mMode (asserted : Bool) : (s.driveA20m asserted).a20mMode = (asserted && !s.a20mBlocked) := rfl
@[simp] theorem State.driveA20m_a20mBlocked (asserted : Bool) : (s.driveA20m asserted).a20mBlocked = s.a20mBlocked := rfl
@[simp] theorem State.driveA20m_smx (asserted : Bool) : (s.driveA20m asserted).smx = s.smx := rfl
@[simp] theorem State.driveA20m_monitorArmed (asserted : Bool) : (s.driveA20m asserted).monitorArmed = s.monitorArmed := rfl
@[simp] theorem State.driveA20m_mem (asserted : Bool) : (s.driveA20m asserted).mem = s.mem := rfl
@[simp] theorem State.driveA20m_cfg (asserted : Bool) : (s.driveA20m asserted).cfg = s.cfg := rfl
@[simp] theorem State.driveA20m_draws (asserted : Bool) : (s.driveA20m asserted).draws = s.draws := rfl

/-! ## The conventions over `State.done` -/

@[simp] theorem State.vmSucceed_eq_done (len : Nat) : s.vmSucceed len = s.done succeedFlags len := rfl

@[simp] theorem State.vmFailInvalid_eq_done (len : Nat) : s.vmFailInvalid len = s.done failInvalidFlags len := rfl

/-! ## Derived views that an update leaves alone -/

@[simp] theorem State.drew_codeMode (n : Nat) : (s.drew n).codeMode = s.codeMode := rfl
@[simp] theorem State.drew_is64 (n : Nat) : (s.drew n).is64 = s.is64 := rfl
@[simp] theorem State.drew_nextRip (n : Nat) (k : Nat) : (s.drew n).nextRip k = s.nextRip k := rfl
@[simp] theorem State.drew_presentByte (n : Nat) (pa : Nat) : (s.drew n).presentByte pa = s.presentByte pa := rfl
@[simp] theorem State.drew_drawn (n : Nat) (pa : Nat) : (s.drew n).drawn pa = s.drawn pa := rfl
@[simp] theorem State.drew_readByte (n slot pa : Nat) : (s.drew n).readByte slot pa = s.readByte slot pa := rfl
@[simp] theorem State.drew_givenView (n : Nat) : (s.drew n).givenView = s.givenView := rfl
@[simp] theorem State.drew_segCheck (n : Nat) (r : SegReg) (ea : Word64) (k : Nat) : (s.drew n).segCheck r ea k = s.segCheck r ea k := rfl
@[simp] theorem State.done_codeMode (flags : StatusFlags) (len : Nat) : (s.done flags len).codeMode = s.codeMode := rfl
@[simp] theorem State.done_is64 (flags : StatusFlags) (len : Nat) : (s.done flags len).is64 = s.is64 := rfl
@[simp] theorem State.done_presentByte (flags : StatusFlags) (len : Nat) (pa : Nat) : (s.done flags len).presentByte pa = s.presentByte pa := rfl
@[simp] theorem State.done_drawn (flags : StatusFlags) (len : Nat) (pa : Nat) : (s.done flags len).drawn pa = s.drawn pa := rfl
@[simp] theorem State.done_readByte (flags : StatusFlags) (len slot pa : Nat) : (s.done flags len).readByte slot pa = s.readByte slot pa := rfl
@[simp] theorem State.enterVmx_codeMode (addr : Word64) : (s.enterVmx addr).codeMode = s.codeMode := rfl
@[simp] theorem State.enterVmx_is64 (addr : Word64) : (s.enterVmx addr).is64 = s.is64 := rfl
@[simp] theorem State.enterVmx_nextRip (addr : Word64) (k : Nat) : (s.enterVmx addr).nextRip k = s.nextRip k := rfl
@[simp] theorem State.vmFailValid_codeMode (error : BitVec 32) (len : Nat) : (s.vmFailValid error len).codeMode = s.codeMode := rfl
@[simp] theorem State.vmFailValid_is64 (error : BitVec 32) (len : Nat) : (s.vmFailValid error len).is64 = s.is64 := rfl
@[simp] theorem State.vmFailValid_presentByte (error : BitVec 32) (len : Nat) (pa : Nat) : (s.vmFailValid error len).presentByte pa = s.presentByte pa := rfl

end Sys2Proof.Machine
end

