-- ==== Sys2Proof/Laws/Ops.lean ====
section
/-! SUPPORT. What each shared operation and each test can do, said once. -/

namespace Sys2Proof.Machine

/-! ## Bytes -/

theorem leNat_lt (bs : List Byte) : leNat bs < 256 ^ bs.length := by
  induction bs with
  | nil => simp [leNat]
  | cons b rest ih =>
    have := b.isLt
    simp only [leNat, List.length_cons, pow_succ]
    omega

@[simp] theorem State.readBytes_length (s : State) (pas : List Nat) : ∀ slot, (s.readBytes slot pas).length = pas.length := by
  induction pas with
  | nil => intro; rfl
  | cons pa rest ih => intro slot; simp [State.readBytes, ih]

@[simp] theorem State.linearBytes_length (s : State) (r : SegReg) (ea : Word64) (n : Nat) :
    (s.linearBytes r ea n).length = n := by simp [State.linearBytes]

theorem State.physRead_lt (s : State) (pa n : Nat) : s.physRead pa n < 256 ^ n := by
  simpa [State.physRead] using leNat_lt (s.readBytes s.draws ((List.range n).map (fun i => pa + i)))

/-! ## Translation -/

/-- A translation fails with a page fault at the address translated. -/
theorem State.translate_error {s : State} {la : Word64} {a : Access} {p : PageFault} (h : s.translate la a = .error p) :
    p.linear = la := by
  unfold State.translate at h
  split at h
  · split at h <;> cases h
    rfl
  · cases h

theorem State.translate_of_paging_off {s : State} (h : s.cr0.getLsbD 31 = false) (la : Word64) (a : Access) :
    s.translate la a = .ok la.toNat := by
  unfold State.translate
  rw [h]; rfl

/-- Two states that agree in CR0, the parameters and what a given function may depend on translate alike. -/
theorem State.translate_congr {s t : State} (hc : s.cr0 = t.cr0) (hg : s.cfg = t.cfg)
    (hv : s.givenView = t.givenView) (la : Word64) (a : Access) : s.translate la a = t.translate la a := by
  simp only [State.translate, State.translatePaged, hc, hg, hv]

/-- All bytes are translated exactly when each is. -/
theorem State.translateAll_ok {s : State} {a : Access} {las : List Word64} {pas : List Nat} :
    s.translateAll a las = .ok pas ↔ List.Forall₂ (fun la pa => s.translate la a = .ok pa) las pas := by
  induction las generalizing pas with
  | nil => simp [State.translateAll, eq_comm]
  | cons la rest ih =>
    simp only [State.translateAll, List.forall₂_cons_left_iff]
    cases h : s.translate la a with
    | error e => cases s.translateAll a rest <;> simp
    | ok pa =>
      cases hr : s.translateAll a rest with
      | error e => simp [← ih, hr]
      | ok pas' =>
        have hb : ∀ x, List.Forall₂ (fun la pa => s.translate la a = Except.ok pa) rest x ↔ pas' = x := by
          intro x; rw [← ih, hr]; simp
        simp only [hb, Except.ok.injEq]
        exact ⟨fun e => ⟨pa, _, rfl, rfl, e.symm⟩, fun ⟨_, _, h1, h2, h3⟩ => by rw [h3, ← h2, ← h1]⟩

theorem PageFault.lower_cases (p q : PageFault) :
    (p.lower q = p ∧ p.linear ≤ q.linear) ∨ (p.lower q = q ∧ q.linear ≤ p.linear) := by
  unfold PageFault.lower
  split
  · exact .inr ⟨rfl, BitVec.le_of_lt ‹_›⟩
  · exact .inl ⟨rfl, BitVec.not_lt.1 ‹_›⟩

/-- A page fault of a list of bytes is that of one of them, and none faults at a lower linear address. -/
theorem State.translateAll_lowest {s : State} {a : Access} {las : List Word64} {p : PageFault}
    (h : s.translateAll a las = .error p) : p.linear ∈ las ∧ s.translate p.linear a = .error p ∧
      ∀ la ∈ las, ∀ q, s.translate la a = .error q → p.linear ≤ la := by
  induction las generalizing p with
  | nil => cases h
  | cons la rest ih =>
    simp only [State.translateAll] at h
    split at h
    · cases h
    · rename_i pa q hpa hq
      cases h
      obtain ⟨h1, h2, h3⟩ := ih hq
      refine ⟨List.mem_cons_of_mem _ h1, h2, fun la' hla q hq => ?_⟩
      rcases List.mem_cons.1 hla with rfl | hla
      · rw [hpa] at hq; cases hq
      · exact h3 la' hla q hq
    · rename_i q pas hq hok
      cases h
      have hl := State.translate_error hq
      refine ⟨by simp [hl], by rw [hl]; exact hq, fun la' hla q' hq' => ?_⟩
      rcases List.mem_cons.1 hla with rfl | hla
      · exact BitVec.le_of_eq hl
      · obtain ⟨k, hk, rfl⟩ := List.getElem_of_mem hla
        have := State.translateAll_ok.1 hok
        have := this.get hk (by rw [← this.length_eq]; exact hk)
        simp only [List.get_eq_getElem] at this
        rw [this] at hq'; cases hq'
    · rename_i q q' hq hq'
      cases h
      have hl := State.translate_error hq
      obtain ⟨h1, h2, h3⟩ := ih hq'
      rcases PageFault.lower_cases q q' with ⟨e, hle⟩ | ⟨e, hle⟩
      · rw [e]
        refine ⟨by simp [hl], by rw [hl]; exact hq, fun la' hla r hr => ?_⟩
        rcases List.mem_cons.1 hla with rfl | hla
        · exact BitVec.le_of_eq hl
        · exact BitVec.le_trans hle (h3 la' hla r hr)
      · rw [e]
        refine ⟨List.mem_cons_of_mem _ h1, h2, fun la' hla r hr => ?_⟩
        rcases List.mem_cons.1 hla with rfl | hla
        · rw [← hl]; exact hle
        · exact h3 la' hla r hr

/-- R129: the page fault of a list of bytes is the one at the lowest linear address that has one. -/
theorem State.translateAll_error {s : State} {a : Access} {las : List Word64} {p : PageFault} :
    s.translateAll a las = .error p ↔ p.linear ∈ las ∧ s.translate p.linear a = .error p ∧
      ∀ la ∈ las, ∀ q, s.translate la a = .error q → p.linear ≤ la := by
  refine ⟨State.translateAll_lowest, fun ⟨h1, h2, h3⟩ => ?_⟩
  cases h : s.translateAll a las with
  | ok pas =>
    obtain ⟨k, hk, e⟩ := List.getElem_of_mem h1
    have hf := State.translateAll_ok.1 h
    have := hf.get hk (by rw [← hf.length_eq]; exact hk)
    simp only [List.get_eq_getElem, e, h2] at this
    cases this
  | error q =>
    obtain ⟨g1, g2, g3⟩ := State.translateAll_lowest h
    have e : q.linear = p.linear := BitVec.le_antisymm (g3 _ h1 _ h2) (h3 _ g1 _ g2)
    rw [e, h2] at g2
    cases g2
    rfl

/-! ## The segment test -/

/-- R44: a byte of the operand lies outside the limit. -/
theorem State.inLimit_false {s : State} {r : SegReg} {ea : Word64} {n : Nat} :
    s.inLimit r ea n = false ↔ ∃ k < n, s.insideLimit r (ea.toNat + k) = false := by
  simp [State.inLimit, List.all_eq_false]

/-- Where the limit of R16 is the last offset inside the segment. -/
theorem State.insideLimit_lastOffset {s : State} (h : s.cfg.segCheck = .lastOffset) (r : SegReg) (offset : Nat) :
    s.insideLimit r offset = decide (offset ≤ (s.segment r).limit.toNat) := by
  simp only [State.insideLimit, h, Segment.upTo]

/-- Two states that agree in their segments, the parameters and what a given function may depend on have the same
limits. -/
theorem State.insideLimit_congr {s t : State} (hs : s.seg = t.seg) (hg : s.cfg = t.cfg)
    (hv : s.givenView = t.givenView) (r : SegReg) (offset : Nat) : s.insideLimit r offset = t.insideLimit r offset := by
  have hr : s.segment r = t.segment r := by cases r <;> simp only [State.segment, hs]
  simp only [State.insideLimit, hr, hg, hv]

/-- The segment test of such states is the same where they are in the same mode. -/
theorem State.segCheck_congr {s t : State} (hs : s.seg = t.seg) (hg : s.cfg = t.cfg)
    (hv : s.givenView = t.givenView) (hm : s.is64 = t.is64) (r : SegReg) (ea : Word64) (n : Nat) :
    s.segCheck r ea n = t.segCheck r ea n := by
  have hr : s.segment r = t.segment r := by cases r <;> simp only [State.segment, hs]
  have hb : s.base64 r = t.base64 r := by cases r <;> simp only [State.base64, hs]
  have hl : s.linearBytes r ea n = t.linearBytes r ea n := by
    simp only [State.linearBytes, State.linearAddr, hm, hr, hb]
  have hi : s.segmentBad r ea n = t.segmentBad r ea n := by
    simp only [State.segmentBad, State.inLimit, hr, State.insideLimit_congr hs hg hv]
  unfold State.segCheck
  rw [hm, hg, hl, hi]

/-- The fault of a segment test is that of the segment. -/
theorem State.segCheck_some {s : State} {r : SegReg} {ea : Word64} {n : Nat} {e : Fault}
    (h : s.segCheck r ea n = some e) : e = segmentFault r := by
  unfold State.segCheck at h
  dsimp only at h
  split at h <;> split at h <;> cases h <;> rfl

/-- R43: a read succeeds exactly when the segment test passes and every byte is translated. -/
theorem State.memRead_ok {s : State} {r : SegReg} {ea : Word64} {n v : Nat} :
    s.memRead r ea n = .ok v ↔ s.segCheck r ea n = none ∧
      ∃ pas, s.translateAll .read (s.linearBytes r ea n) = .ok pas ∧ leNat (s.readBytes s.draws pas) = v := by
  unfold State.memRead
  cases s.segCheck r ea n with
  | some e => simp
  | none =>
    cases s.translateAll .read (s.linearBytes r ea n) <;> simp

/-- R129: the fault of a read is that of the segment test, and a page fault only where the test passes. -/
theorem State.memRead_error {s : State} {r : SegReg} {ea : Word64} {n : Nat} {e : Fault} :
    s.memRead r ea n = .error e ↔ s.segCheck r ea n = some e ∨
      (s.segCheck r ea n = none ∧
        ∃ p, s.translateAll .read (s.linearBytes r ea n) = .error p ∧ e = .pf p.code p.linear) := by
  unfold State.memRead
  cases s.segCheck r ea n with
  | some e => simp
  | none =>
    cases s.translateAll .read (s.linearBytes r ea n) <;> simp [eq_comm]

/-! ## What the reads depend on -/

theorem State.readBytes_congr {s t : State} (h : ∀ slot pa, s.readByte slot pa = t.readByte slot pa) (pas : List Nat) :
    ∀ slot, s.readBytes slot pas = t.readBytes slot pas := by
  induction pas with
  | nil => intro; rfl
  | cons pa rest ih => intro slot; simp only [State.readBytes, h, ih]

theorem State.translateAll_congr {s t : State} {a : Access} (h : ∀ la, s.translate la a = t.translate la a)
    (las : List Word64) : s.translateAll a las = t.translateAll a las := by
  induction las with
  | nil => rfl
  | cons la rest ih => simp only [State.translateAll, h, ih]

/-- Two states that agree in what a read asks read the same. -/
theorem State.memRead_congr {s t : State} {r : SegReg} {ea : Word64} {n : Nat}
    (hc : s.segCheck r ea n = t.segCheck r ea n) (hl : s.linearBytes r ea n = t.linearBytes r ea n)
    (ht : ∀ la, s.translate la .read = t.translate la .read) (hd : s.draws = t.draws)
    (hb : ∀ slot pa, s.readByte slot pa = t.readByte slot pa) : s.memRead r ea n = t.memRead r ea n := by
  simp only [State.memRead, hc, hl, State.translateAll_congr ht, hd, State.readBytes_congr hb]

/-- R47, R50: a draw is the free byte of its number. -/
theorem State.readByte_drawn {s : State} {pa : Nat} (h : s.drawn pa = true) (slot : Nat) :
    s.readByte slot pa = Config.freeByte slot := by simp [State.readByte, h]

/-- A byte that is no draw is the same whatever its draw number. -/
theorem State.readByte_known {s : State} {pa : Nat} (h : s.drawn pa = false) (slot slot' : Nat) :
    s.readByte slot pa = s.readByte slot' pa := by simp [State.readByte, h]

/-- The byte that the model holds is the one read. -/
theorem State.readByte_present {s : State} {pa : Nat} {b : Byte} (h : s.presentByte pa = some b) (slot : Nat) :
    s.readByte slot pa = b := by
  have hd : s.drawn pa = false := by
    unfold State.presentByte at h
    split at h
    · cases h
    · simp [State.drawn, State.hasMemory, *]
  simp [State.readByte, hd, h]

/-- A byte the model holds is no draw. -/
theorem State.drawn_of_present {s : State} {pa : Nat} (h : s.presentByte pa ≠ none) : s.drawn pa = false := by
  unfold State.presentByte at h
  split at h
  · exact absurd rfl h
  · obtain ⟨b, hb⟩ := Option.ne_none_iff_exists'.1 h
    simp [State.drawn, State.hasMemory, *]

/-- The bytes of a read none of which is a draw do not depend on the draw numbers. -/
theorem State.readBytes_known {s : State} {pas : List Nat} (h : ∀ pa ∈ pas, s.drawn pa = false) :
    ∀ slot slot', s.readBytes slot pas = s.readBytes slot' pas := by
  induction pas with
  | nil => intros; rfl
  | cons pa rest ih =>
    intro slot slot'
    simp only [State.readBytes]
    rw [State.readByte_known (h pa (by simp)) slot slot',
      ih (fun q hq => h q (by simp [hq])) (slot + 1) (slot' + 1)]

/-! ## The tests of VMXON -/

theorem isRegister_iff {op : Operand} : isRegister op = true ↔ ∃ rm, op = .register rm := by
  cases op <;> simp [isRegister]

/-- The first test finds nothing exactly when the instruction is recognized. -/
theorem invalidOpcode_false {f : VmxonForm} {s : State} : invalidOpcode f s = false ↔ Recognized f s := by
  unfold invalidOpcode
  simp only [Bool.or_eq_false_iff, Bool.not_eq_false']
  constructor
  · rintro ⟨⟨⟨⟨h1, h2⟩, h3⟩, h4⟩, h5⟩
    refine ⟨fun rm e => ?_, h2, h3, h4, fun h => by simpa [h] using h5⟩
    rw [isRegister_iff.2 ⟨rm, e⟩] at h1; cases h1
  · rintro ⟨h1, h2, h3, h4, h5⟩
    refine ⟨⟨⟨⟨?_, h2⟩, h3⟩, h4⟩, ?_⟩
    · rw [Bool.eq_false_iff, ne_eq, isRegister_iff]
      rintro ⟨rm, e⟩; exact h1 rm e
    · cases h : s.eferLma <;> simp [h5, h]

theorem cpl_not_pos {c : BitVec 2} : ¬(0#2 < c) ↔ c = 0#2 := by revert c; decide

/-- R87: the default of `Cr0Cr4Supported`. -/
theorem CrPredicate.holds_fixedBits {cr0 cr4 a b c d : Word64} :
    CrPredicate.holds cr0 cr4 (.fixedBits a b c d) = true ↔
      cr0 &&& a = a ∧ cr0 &&& ~~~b = 0#64 ∧ cr4 &&& c = c ∧ cr4 &&& ~~~d = 0#64 := by
  simp [CrPredicate.holds, fixedBitsHold, and_assoc]

/-- The tests outside VMX operation find nothing exactly when entry is permitted. -/
theorem entryProhibited_false {s : State} : entryProhibited s = false ↔ Permitted s := by
  unfold entryProhibited featureControlAllows
  simp only [Bool.or_eq_false_iff, Bool.not_eq_false', decide_eq_false_iff_not, cpl_not_pos, Bool.and_eq_true]
  constructor
  · rintro ⟨⟨⟨h1, h2⟩, h3⟩, h7, h8⟩
    exact ⟨h1, h2, h3, h7, fun h => by simpa [h] using h8, fun h => by simpa [h] using h8⟩
  · rintro ⟨h1, h2, h3, h7, h8, h9⟩
    refine ⟨⟨⟨h1, h2⟩, h3⟩, h7, ?_⟩
    cases h : s.smx
    · exact h9 h
    · exact h8 h

theorem low_bits_zero (a : Word64) : a.extractLsb' 0 12 = 0#12 ↔ a.toNat % 4096 = 0 := by
  rw [← BitVec.toNat_inj]; simp

theorem shift_zero (a : Word64) (w : Nat) : a >>> w = 0#64 ↔ a.toNat < 2 ^ w := by
  rw [← BitVec.toNat_inj]
  simp [Nat.shiftRight_eq_div_pow, Nat.div_eq_zero_iff]

theorem high_bits_zero (a : Word64) : a.extractLsb' 32 32 = 0#32 ↔ a.toNat < 2 ^ 32 := by
  rw [← BitVec.toNat_inj]
  have := a.isLt
  simp [Nat.shiftRight_eq_div_pow]
  omega

/-- R93: the pointer check finds nothing exactly when the pointer is usable. -/
theorem pointerRejected_false {c : Config} {a : Word64} : pointerRejected c a = false ↔ usablePointer c a.toNat := by
  unfold pointerRejected usablePointer
  rw [← low_bits_zero, ← shift_zero, ← high_bits_zero]
  cases c.vmxBasic48 <;> simp [and_assoc]

/-- R95: the only accepted value of the revision word is the identifier with bit 31 clear. -/
theorem revisionRejected_false {c : Config} {rev : BitVec 32} :
    revisionRejected c rev = false ↔ rev.toNat = c.vmcsRevisionId.toNat := by
  unfold revisionRejected
  have hr := rev.isLt
  have hv := c.vmcsRevisionId.isLt
  have hb : rev.getLsbD 31 = decide (2 ^ 31 ≤ rev.toNat) := by
    rw [BitVec.getLsbD, Nat.testBit_eq_decide_div_mod_eq]
    congr 1
    rw [eq_iff_iff]; omega
  simp only [Bool.or_eq_false_iff, Bool.not_eq_false', beq_iff_eq, hb, decide_eq_false_iff_not, ← BitVec.toNat_inj,
    BitVec.extractLsb'_toNat, Nat.shiftRight_zero]
  omega

/-- The bytes of an operand, by the model's own translation of all of them. -/
theorem operandAt_of_translateAll {f : VmxonForm} {s : State} {pas : List Nat}
    (hs : s.segCheck (operandSegment f) (s.effectiveAddress f) 8 = none)
    (ht : s.translateAll .read (s.linearBytes (operandSegment f) (s.effectiveAddress f) 8) = .ok pas) :
    OperandAt f s pas := by
  have h2 := State.translateAll_ok.1 ht
  have hc : pas.length = 8 := by simpa using h2.length_eq.symm
  refine ⟨hs, hc, fun i pa hi => ?_⟩
  obtain ⟨hlt, rfl⟩ := List.getElem?_eq_some_iff.1 hi
  simpa [State.linearBytes] using h2.get (by simpa [hc] using hlt) hlt

/-- The model translates the bytes of an operand to the addresses it is at. -/
theorem OperandAt.translateAll {f : VmxonForm} {s : State} {pas : List Nat} (h : OperandAt f s pas) :
    s.translateAll .read (s.linearBytes (operandSegment f) (s.effectiveAddress f) 8) = .ok pas := by
  rw [State.translateAll_ok, List.forall₂_iff_get]
  refine ⟨by simp [h.count], fun i h1 h2 => ?_⟩
  simpa [State.linearBytes] using h.translate i pas[i] (List.getElem?_eq_getElem h2)

end Sys2Proof.Machine
end

