-- ==== Sys2Proof/Laws/Exec.lean ====
section
/-! SUPPORT. Everything VMXON and one step can do, said once: later proofs cite these instead of unfolding. -/

namespace Sys2Proof.Machine

/-- The state after a pointer that the pointer check rejects (R93). -/
def afterBadPointer (f : VmxonForm) (s : State) : State := (s.drew 8).vmFailInvalid f.length

/-- The state after a revision word that the revision check rejects (R95). -/
def afterBadRevision (f : VmxonForm) (s : State) : State := ((s.drew 8).drew 4).vmFailInvalid f.length

/-- The state after a success (R97 to R105). -/
def afterEntry (f : VmxonForm) (s : State) (addr : Word64) : State :=
  (((s.drew 8).drew 4).enterVmx addr).vmSucceed f.length

/-- What `tryEntry` answers, by its tests. -/
theorem tryEntry_ok {f : VmxonForm} {s : State} {v : Nat}
    (h : s.memRead (operandSegment f) (s.effectiveAddress f) 8 = .ok v) :
    tryEntry f s =
      if pointerRejected s.cfg (BitVec.ofNat 64 v) then .next (afterBadPointer f s)
      else if revisionRejected s.cfg (BitVec.ofNat 32 ((s.drew 8).physRead (BitVec.ofNat 64 v).toNat 4)) then
        .next (afterBadRevision f s)
      else .next (afterEntry f s (BitVec.ofNat 64 v)) := by
  simp only [tryEntry, h]
  rfl

theorem tryEntry_error {f : VmxonForm} {s : State} {e : Fault}
    (h : s.memRead (operandSegment f) (s.effectiveAddress f) 8 = .error e) : tryEntry f s = .fault e := by
  simp only [tryEntry, h]
  rfl

/-- Every next state of VMXON, with what holds where it is reached. -/
theorem execVmxon_next {f : VmxonForm} {s t : State} (h : execVmxon f s = .next t) :
    Recognized f s ∧
      ((s.vmx = .off ∧ Permitted s ∧ ∃ v, s.memRead (operandSegment f) (s.effectiveAddress f) 8 = .ok v ∧
          ((¬usablePointer s.cfg (BitVec.ofNat 64 v).toNat ∧ t = afterBadPointer f s) ∨
            (usablePointer s.cfg (BitVec.ofNat 64 v).toNat ∧
              revisionAt s (BitVec.ofNat 64 v).toNat ≠ s.cfg.vmcsRevisionId.toNat ∧ t = afterBadRevision f s) ∨
            (usablePointer s.cfg (BitVec.ofNat 64 v).toNat ∧
              revisionAt s (BitVec.ofNat 64 v).toNat = s.cfg.vmcsRevisionId.toNat ∧
              t = afterEntry f s (BitVec.ofNat 64 v)))) ∨
        (s.vmx = .root ∧ s.cpl = 0#2 ∧ t = s.vmFail vmxonInRootError f.length)) := by
  unfold execVmxon at h
  cases hi : invalidOpcode f s with
  | true => simp [hi, raise] at h
  | false =>
    refine ⟨invalidOpcode_false.1 hi, ?_⟩
    simp only [hi, Bool.false_eq_true, if_false] at h
    cases hv : s.vmx with
    | nonRoot => simp [hv, raise] at h
    | root =>
      simp only [hv] at h
      split at h
      · cases h
      · rename_i hc
        cases h
        exact .inr ⟨rfl, cpl_not_pos.1 hc, rfl⟩
    | off =>
      simp only [hv] at h
      cases hp : entryProhibited s with
      | true => simp [hp, raise] at h
      | false =>
        simp only [hp, Bool.false_eq_true, if_false] at h
        refine .inl ⟨rfl, entryProhibited_false.1 hp, ?_⟩
        cases hm : s.memRead (operandSegment f) (s.effectiveAddress f) 8 with
        | error e => rw [tryEntry_error hm] at h; cases h
        | ok v =>
          rw [tryEntry_ok hm] at h
          refine ⟨v, rfl, ?_⟩
          have hlt : (s.drew 8).physRead (BitVec.ofNat 64 v).toNat 4 < 2 ^ 32 := State.physRead_lt _ _ 4
          have hrev := revisionRejected_false (c := s.cfg)
            (rev := BitVec.ofNat 32 ((s.drew 8).physRead (BitVec.ofNat 64 v).toNat 4))
          rw [show (BitVec.ofNat 32 ((s.drew 8).physRead (BitVec.ofNat 64 v).toNat 4)).toNat = _ from
            Nat.mod_eq_of_lt hlt] at hrev
          cases hp : pointerRejected s.cfg (BitVec.ofNat 64 v) with
          | true =>
            simp only [hp, if_true] at h
            cases h
            exact .inl ⟨fun hu => Bool.false_ne_true ((pointerRejected_false.2 hu).symm.trans hp), rfl⟩
          | false =>
            simp only [hp, Bool.false_eq_true, if_false] at h
            split at h
            · rename_i hr
              cases h
              exact .inr (.inl ⟨pointerRejected_false.1 hp, fun hu => Bool.false_ne_true ((hrev.2 hu).symm.trans hr), rfl⟩)
            · rename_i hr
              cases h
              exact .inr (.inr ⟨pointerRejected_false.1 hp, hrev.1 (by simpa using hr), rfl⟩)

/-- Every stop of VMXON, with what holds where it is reached. -/
theorem execVmxon_fault {f : VmxonForm} {s : State} {e : Fault} (h : execVmxon f s = .fault e) :
    (e = .ud ∧ ¬Recognized f s) ∨
      (Recognized f s ∧
        ((e = .vmExit ∧ s.vmx = .nonRoot) ∨
          (e = .gp 0#32 ∧ s.vmx = .root ∧ s.cpl ≠ 0#2) ∨
          (e = .gp 0#32 ∧ s.vmx = .off ∧ ¬Permitted s) ∨
          (s.vmx = .off ∧ Permitted s ∧ s.memRead (operandSegment f) (s.effectiveAddress f) 8 = .error e))) := by
  unfold execVmxon at h
  cases hi : invalidOpcode f s with
  | true =>
    simp only [hi, if_true] at h
    cases h
    exact .inl ⟨rfl, fun hr => by rw [invalidOpcode_false.2 hr] at hi; cases hi⟩
  | false =>
    refine .inr ⟨invalidOpcode_false.1 hi, ?_⟩
    simp only [hi, Bool.false_eq_true, if_false] at h
    cases hv : s.vmx with
    | nonRoot =>
      simp only [hv] at h
      cases h
      exact .inl ⟨rfl, rfl⟩
    | root =>
      simp only [hv] at h
      split at h
      · rename_i hc
        cases h
        exact .inr (.inl ⟨rfl, rfl, fun h0 => cpl_not_pos.2 h0 hc⟩)
      · cases h
    | off =>
      simp only [hv] at h
      cases hp : entryProhibited s with
      | true =>
        simp only [hp, if_true] at h
        cases h
        exact .inr (.inr (.inl ⟨rfl, rfl, fun hr => by rw [entryProhibited_false.2 hr] at hp; cases hp⟩))
      | false =>
        simp only [hp, Bool.false_eq_true, if_false] at h
        refine .inr (.inr (.inr ⟨rfl, entryProhibited_false.1 hp, ?_⟩))
        cases hm : s.memRead (operandSegment f) (s.effectiveAddress f) 8 with
        | error e' => rw [tryEntry_error hm] at h; cases h; rfl
        | ok v =>
          rw [tryEntry_ok hm] at h
          split at h
          · cases h
          · split at h <;> cases h

theorem execVmxon_of_not_recognized {f : VmxonForm} {s : State} (h : ¬Recognized f s) :
    execVmxon f s = .fault .ud := by
  have : invalidOpcode f s = true := by
    cases hi : invalidOpcode f s with
    | true => rfl
    | false => exact absurd (invalidOpcode_false.1 hi) h
  simp [execVmxon, this, raise]

theorem execVmxon_off {f : VmxonForm} {s : State} (h : Recognized f s) (hv : s.vmx = .off) (hp : Permitted s) :
    execVmxon f s = tryEntry f s := by
  simp [execVmxon, invalidOpcode_false.2 h, hv, entryProhibited_false.2 hp]

theorem execVmxon_off_prohibited {f : VmxonForm} {s : State} (h : Recognized f s) (hv : s.vmx = .off)
    (hp : ¬Permitted s) : execVmxon f s = .fault (.gp 0#32) := by
  have : entryProhibited s = true := by
    cases hi : entryProhibited s with
    | true => rfl
    | false => exact absurd (entryProhibited_false.1 hi) hp
  simp [execVmxon, invalidOpcode_false.2 h, hv, this, raise]

theorem execVmxon_nonRoot {f : VmxonForm} {s : State} (h : Recognized f s) (hv : s.vmx = .nonRoot) :
    execVmxon f s = .fault .vmExit := by
  simp [execVmxon, invalidOpcode_false.2 h, hv, raise]

theorem execVmxon_root {f : VmxonForm} {s : State} (h : Recognized f s) (hv : s.vmx = .root) :
    execVmxon f s = if 0#2 < s.cpl then .fault (.gp 0#32) else .next (s.vmFail vmxonInRootError f.length) := by
  simp [execVmxon, invalidOpcode_false.2 h, hv, raise]

/-- Every next state of a step is that of the instruction fetched. -/
theorem step_next {s t : State} (h : step s = .next t) :
    ∃ i rest, s.fetchInstr = .ok (i, rest) ∧ exec i s = .next t := by
  unfold step at h
  split at h
  · rename_i i rest e
    exact ⟨i, rest, e, h⟩
  · cases h

end Sys2Proof.Machine
end

