-- ==== Sys2Proof/Laws/Memory.lean ====
section
/-! SUPPORT. Memory: a read after a write, and every operation keeps the canonical form. -/

namespace Sys2Proof.Machine

theorem Memory.read_write_same (m : Memory) (a : Nat) (v : Byte) : Memory.read (Memory.write m a v) a = some v := by
  induction m with
  | nil => simp [Memory.write, Memory.read]
  | cons c rest ih =>
    obtain ⟨k, b⟩ := c
    simp only [Memory.write]
    split_ifs with h1 h2
    · simp [Memory.read]
    · simp [Memory.read]
    · simp [Memory.read, Ne.symm h2, ih]

theorem Memory.read_write_other (m : Memory) {a x : Nat} (v : Byte) (h : x ≠ a) :
    Memory.read (Memory.write m a v) x = Memory.read m x := by
  induction m with
  | nil => simp [Memory.write, Memory.read, h.symm]
  | cons c rest ih =>
    obtain ⟨k, b⟩ := c
    simp only [Memory.write]
    split_ifs with h1 h2
    · simp [Memory.read, h.symm]
    · subst h2; simp [Memory.read, h.symm]
    · simp [Memory.read, ih]

/-- A written memory lists the written address and otherwise only addresses that were listed. -/
theorem Memory.mem_write {m : Memory} {a : Nat} {v : Byte} {c : Host.Cell} (h : c ∈ Memory.write m a v) :
    c = (a, v) ∨ c ∈ m := by
  induction m with
  | nil => exact .inl (by simpa [Memory.write] using h)
  | cons d rest ih =>
    obtain ⟨k, b⟩ := d
    simp only [Memory.write] at h
    split_ifs at h with h1 h2
    · simpa using h
    · rcases List.mem_cons.1 h with h | h
      · exact .inl h
      · exact .inr (List.mem_cons_of_mem _ h)
    · rcases List.mem_cons.1 h with h | h
      · exact .inr (by simp [h])
      · exact (ih h).imp id (List.mem_cons_of_mem _)

theorem Memory.write_wf {m : Memory} (a : Nat) (v : Byte) (h : Memory.wf m) : Memory.wf (Memory.write m a v) := by
  induction m with
  | nil => simp [Memory.write, Memory.wf]
  | cons c rest ih =>
    obtain ⟨k, b⟩ := c
    obtain ⟨hk, hr⟩ := List.pairwise_cons.1 h
    simp only [Memory.write]
    split_ifs with h1 h2
    · exact List.pairwise_cons.2 ⟨fun d hd => by
        rcases List.mem_cons.1 hd with rfl | hd
        · exact h1
        · exact h1.trans (hk d hd), h⟩
    · subst h2
      exact List.pairwise_cons.2 ⟨hk, hr⟩
    · refine List.pairwise_cons.2 ⟨fun d hd => ?_, ih hr⟩
      rcases Memory.mem_write hd with rfl | hd
      · exact lt_of_le_of_ne (not_lt.1 h1) (Ne.symm h2)
      · exact hk d hd

/-- Placing a program keeps the canonical form. -/
theorem State.placeFrom_wf (s : State) (bs : List Byte) : ∀ (i : Nat) {m : Memory}, Memory.wf m →
    Memory.wf (s.placeFrom i bs m) := by
  induction bs with
  | nil => exact fun _ _ h => h
  | cons b rest ih =>
    intro i m h
    refine ih (i + 1) ?_
    split
    · exact Memory.write_wf _ _ h
    · exact h

/-- Everything a software store that is not refused does: it writes where there is memory, and nothing elsewhere. -/
theorem State.softwareStore_next {s t : State} {pa : Nat} {v : Byte} (h : s.softwareStore pa v = .next t) :
    (s.hasMemory (s.maskA20 pa) = true ∧ t = { s with mem := Memory.write s.mem (s.maskA20 pa) v }) ∨
      (s.hasMemory (s.maskA20 pa) = false ∧ t = s) := by
  unfold State.softwareStore at h
  dsimp only at h
  split_ifs at h with h1 h2 h3
  · cases h; exact .inl ⟨h3, rfl⟩
  · cases h; exact .inr ⟨by simpa using h3, rfl⟩

/-- A listed byte is read. -/
theorem Memory.read_some_mem {m : Memory} {a : Nat} {b : Byte} (h : Memory.read m a = some b) : (a, b) ∈ m := by
  induction m with
  | nil => cases h
  | cons c rest ih =>
    obtain ⟨k, d⟩ := c
    simp only [Memory.read] at h
    split_ifs at h with hk
    · cases h; subst hk; simp
    · exact List.mem_cons_of_mem _ (ih h)

/-- A software store that is not refused keeps the canonical form. -/
theorem State.softwareStore_wf {s t : State} {pa : Nat} {v : Byte} (h : s.softwareStore pa v = .next t)
    (hm : Memory.wf s.mem) : Memory.wf t.mem := by
  rcases State.softwareStore_next h with ⟨-, rfl⟩ | ⟨-, rfl⟩
  · exact Memory.write_wf _ _ hm
  · exact hm

end Sys2Proof.Machine
end

