-- ==== Sys2Proof/Laws/Operands.lean ====
section
/-! SUPPORT. Cutting to the address size, sign extension, and the register numbers. -/

namespace Sys2Proof.Machine

@[simp] theorem wrapAddr_a16 (v : Word64) : wrapAddr .a16 v = (v.setWidth 16).setWidth 64 := rfl

@[simp] theorem wrapAddr_a32 (v : Word64) : wrapAddr .a32 v = (v.setWidth 32).setWidth 64 := rfl

@[simp] theorem wrapAddr_a64 (v : Word64) : wrapAddr .a64 v = v := by simp [wrapAddr, AddrSize.bits]

/-- The low part of a sign-extended value is the value. -/
theorem signExtend_setWidth_self {w : Nat} (v : BitVec w) (h : w ≤ 64) : (v.signExtend 64).setWidth w = v := by
  ext i hi
  rw [BitVec.getElem_setWidth, BitVec.getLsbD_eq_getElem (by omega), BitVec.getElem_signExtend]
  simp [hi]

/-- Sign-extending a byte to 64 bits and cutting to 16 is sign-extending it to 16. -/
theorem signExtend_byte_setWidth (b : Byte) : (b.signExtend 64).setWidth 16 = b.signExtend 16 := by
  ext i hi
  rw [BitVec.getElem_setWidth, BitVec.getLsbD_eq_getElem (by omega), BitVec.getElem_signExtend,
    BitVec.getElem_signExtend]

/-- Sign-extending a byte in two stages is sign-extending it at once. -/
theorem signExtend_byte_signExtend (b : Byte) : (b.signExtend 32).signExtend 64 = b.signExtend 64 := by
  revert b; decide

/-- Without REX a register number is the field of the byte. -/
theorem regNumber_false (n : BitVec 3) : regNumber false n = n.setWidth 4 := by revert n; decide

theorem wrapAddr_lt (size : AddrSize) (v : Word64) : (wrapAddr size v).toNat < 2 ^ size.bits := by
  have : (v.setWidth size.bits).toNat < 2 ^ size.bits := (v.setWidth size.bits).isLt
  rw [wrapAddr, BitVec.toNat_setWidth]
  exact lt_of_le_of_lt (Nat.mod_le _ _) this

end Sys2Proof.Machine
end

