-- ==== Sys2Proof/Laws/PerInstr.lean ====
section
/-! SUPPORT. Statements made per instruction. -/

namespace Sys2Proof.Laws.EncodedLength

/-- R67: the length of an instruction is the number of its bytes. -/
def Statement (i : Instr) : Prop := (encode i).length = i.length

theorem vmxon (f : VmxonForm) : Statement (.vmxon f) := by
  simp only [Statement, encode, Instr.length, VmxonForm.toBytes, VmxonForm.length, List.length_append, List.length_map,
    List.length_cons, Operand.toBytes_length]
  omega

end Sys2Proof.Laws.EncodedLength
end

