-- ==== Sys2Proof/Laws/Run.lean ====
section
/-! SUPPORT. What a run (R159) is, one execution at a time. -/

namespace Sys2Proof.Machine

theorem run_zero (a : Word64) (s : State) : run a 0 s = .running s := rfl

/-- The end address is reached by this execution. -/
theorem run_end {a : Word64} {s t : State} (h : step s = .next t) (ha : t.rip = a) (n : Nat) :
    run a (n + 1) s = .ended t := by simp [run, h, ha]

/-- The run goes on behind this execution. -/
theorem run_continue {a : Word64} {s t : State} (h : step s = .next t) (ha : t.rip ≠ a) (n : Nat) :
    run a (n + 1) s = run a n t := by simp [run, h, ha]

theorem run_fault {a : Word64} {s : State} {e : Fault} (h : step s = .fault e) (n : Nat) :
    run a (n + 1) s = .fault e s := by simp [run, h]

theorem run_refused {a : Word64} {s : State} {r : Refusal} (h : step s = .refused r) (n : Nat) :
    run a (n + 1) s = .refused r s := by simp [run, h]

end Sys2Proof.Machine
end

