-- ==== Sys2Proof/Tests/Slice0.lean ====
section
/-! SUPPORT. The model's own tests: the well-formedness smoke test, decoding of words written out from
spec/30_encoding.md, one step, and for every statement with hypotheses a witness that meets them. Expected values are
those of spec/95_test_vectors.md (V<n>) or worked out by hand from the rule named. -/

namespace Sys2Proof.Tests

open Sys2Proof Sys2Proof.Machine

set_option maxRecDepth 2000

/-! ## Well-formedness: one ill-formed term for each check -/

def form (mode : CodeMode) (ps : List LegacyPrefix) (rex : Option Rex) (op : Operand) : VmxonForm := ⟨mode, ps, rex, op⟩

theorem test_wf_accepts :
    (form .m64 [.mandatory] none (.based 0 .absent)).wf = true ∧
    (form .m64 [.addressSize, .segment .fs, .mandatory] (some ⟨true, false, true, true⟩) (.sib 3 1 0 (.wide 7))).wf = true ∧
    (form .m16 [.mandatory] none (.based16 .bp (.byte 0))).wf = true ∧
    (form .m16 [.mandatory] none (.absolute16 0x1234)).wf = true ∧
    (form .m32 [.mandatory] none (.sibNoBase 0 4 0x1000)).wf = true ∧
    (form .m32 [.mandatory] none (.register 7)).wf = true := by decide

theorem test_wf_refuses_no_mandatory : (form .m64 [] none (.based 0 .absent)).wf = false := by decide

theorem test_wf_refuses_two_mandatory : (form .m64 [.mandatory, .mandatory] none (.based 0 .absent)).wf = false := by
  decide

theorem test_wf_refuses_two_segments :
    (form .m64 [.segment .fs, .mandatory, .segment .gs] none (.based 0 .absent)).wf = false := by decide

theorem test_wf_refuses_two_address_sizes :
    (form .m64 [.addressSize, .mandatory, .addressSize] none (.based 0 .absent)).wf = false := by decide

theorem test_wf_refuses_rex_outside_64 :
    (form .m32 [.mandatory] (some ⟨false, false, false, false⟩) (.based 0 .absent)).wf = false := by decide

theorem test_wf_refuses_wrong_address_size :
    (form .m32 [.mandatory] none (.absolute16 0)).wf = false ∧
    (form .m64 [.addressSize, .mandatory] none (.based16 .si .absent)).wf = false ∧
    (form .m16 [.mandatory] none (.displacement32 0)).wf = false ∧
    (form .m16 [.mandatory] none (.based 0 .absent)).wf = false ∧
    (form .m32 [.addressSize, .mandatory] none (.sib 0 0 0 .absent)).wf = false ∧
    (form .m16 [.mandatory] none (.sibNoBase 0 0 0)).wf = false := by decide

theorem test_wf_refuses_bits_of_another_form :
    (form .m16 [.mandatory] none (.based16 .bp .absent)).wf = false ∧
    (form .m32 [.mandatory] none (.based 4 .absent)).wf = false ∧
    (form .m32 [.mandatory] none (.based 5 .absent)).wf = false ∧
    (form .m32 [.mandatory] none (.sib 0 0 5 .absent)).wf = false := by decide

/-! ## Decoding: words written out bit by bit -/

/-- R62: ModRM `mod` 00, `reg` 110, `rm` 000 and R81: `mod` 11. -/
theorem test_decode_based_and_register :
    decode .m64 [0b11110011, 0b00001111, 0b11000111, 0b00110000] =
      .ok (.vmxon ⟨.m64, [.mandatory], none, .based 0 .absent⟩, []) ∧
    decode .m32 [0b11110011, 0b00001111, 0b11000111, 0b11110110] =
      .ok (.vmxon ⟨.m32, [.mandatory], none, .register 6⟩, []) := by decide

/-- R68: `mod` 00 and `rm` 110 is disp16 alone; `mod` 10 and `rm` 010 is BP + SI with disp16. -/
theorem test_decode_sixteen_bit :
    decode .m16 [0b11110011, 0b00001111, 0b11000111, 0b00110110, 0x34, 0x12] =
      .ok (.vmxon ⟨.m16, [.mandatory], none, .absolute16 0x1234⟩, []) ∧
    decode .m16 [0b11110011, 0b00001111, 0b11000111, 0b10110010, 0xFE, 0xFF] =
      .ok (.vmxon ⟨.m16, [.mandatory], none, .based16 .bpSi (.wide 0xFFFE)⟩, []) ∧
    decode .m16 [0b11110011, 0b00001111, 0b11000111, 0b01110111, 0x80] =
      .ok (.vmxon ⟨.m16, [.mandatory], none, .based16 .bx (.byte 0x80)⟩, []) := by decide

/-- R69: `mod` 00 and `rm` 101 is disp32 alone; SIB scale 01, index 110, base 011; SIB base 101 with `mod` 00. -/
theorem test_decode_thirty_two_bit :
    decode .m32 [0b11110011, 0b00001111, 0b11000111, 0b00110101, 0x78, 0x56, 0x34, 0x12] =
      .ok (.vmxon ⟨.m32, [.mandatory], none, .displacement32 0x12345678⟩, []) ∧
    decode .m32 [0b11110011, 0b00001111, 0b11000111, 0b01110100, 0b01110011, 0x7F] =
      .ok (.vmxon ⟨.m32, [.mandatory], none, .sib 1 6 3 (.byte 0x7F)⟩, []) ∧
    decode .m32 [0b11110011, 0b00001111, 0b11000111, 0b00110100, 0b10001101, 0x78, 0x56, 0x34, 0x12] =
      .ok (.vmxon ⟨.m32, [.mandatory], none, .sibNoBase 2 1 0x12345678⟩, []) := by decide

/-- R65, R66: prefixes in any order, REX `0100WRXB` right before the opcode. -/
theorem test_decode_prefixes_and_rex :
    decode .m64 [0b01100101, 0b01100111, 0b11110011, 0b01001010, 0b00001111, 0b11000111, 0b10110001, 1, 2, 3, 4] =
      .ok (.vmxon ⟨.m64, [.segment .gs, .addressSize, .mandatory], some ⟨true, false, true, false⟩,
        .based 1 (.wide 0x04030201)⟩, []) ∧
    decode .m32 [0b11110011, 0b00101110, 0b00001111, 0b11000111, 0b00110011, 0x90] =
      .ok (.vmxon ⟨.m32, [.mandatory, .segment .cs], none, .based 3 .absent⟩, [0x90]) := by decide

/-- R65, R72, R75: what is refused, and why. -/
theorem test_decode_refuses :
    decode .m64 [0x66, 0x0F, 0xC7, 0x30] = .error (.prefixNotAdmitted 0x66) ∧
    decode .m64 [0xF3, 0xF0, 0x0F, 0xC7, 0x30] = .error (.prefixNotAdmitted 0xF0) ∧
    decode .m64 [0xF2, 0x0F, 0xC7, 0x30] = .error (.prefixNotAdmitted 0xF2) ∧
    decode .m64 [0x0F, 0xC7, 0x30] = .error .noMandatoryPrefix ∧
    decode .m64 [0xF3, 0xF3, 0x0F, 0xC7, 0x30] = .error .prefixRepeated ∧
    decode .m64 [0xF3, 0x0F, 0xC7, 0x38] = .error .notVmxon ∧
    decode .m32 [0xF3, 0x41, 0x0F, 0xC7, 0x30] = .error .notVmxon ∧
    decode .m64 [0xF3, 0x41, 0x42, 0x0F, 0xC7, 0x30] = .error .notVmxon ∧
    decode .m64 [0xF3, 0x0F, 0xC7, 0x75] = .error .truncated ∧
    decode .m64 [] = .error .truncated := by decide

/-- spec/opcode_table.json: match `F3 0F C7 30`. -/
theorem test_table_word_decodes :
    decodeTableWord 32 0x30C70FF3 = some (.vmxon ⟨.m16, [.mandatory], none, .based16 .bxSi .absent⟩) := by decide

/-- R82, R151: the first VMXON after reset raises #UD, since CR0.PE is 0. -/
theorem test_table_word_runs : step (State.reset.withFetchWord 32 0x30C70FF3) = .fault .ud := by rfl

/-- Nothing is placed after reset. -/
theorem test_reset_has_no_instruction : step State.reset = .refused .noInstructionBytes := by rfl

/-! ## The baseline of spec/95_test_vectors.md -/

def chip : Config :=
  { physAddrWidth := 46, vmxBasic48 := false, vmcsRevisionId := 4,
    cr0Cr4Supported := .fixedBits 0x80000021 0xFFFFFFFF 0x2000 0x3767FF, ptSupported := true, ptAllowedInVmx := false,
    smxSupported := true,
    linearAddrWidth := .w48, translate := .pages ⟨[], true, 0⟩, physPopulated := [⟨0, 2 ^ 46⟩],
    segCheck := .lastOffset }

def flat : Segment := ⟨0, 0xFFFFFFFF, false, false⟩

/-- Memory with the bytes of a little-endian number written. -/
def poke (m : Memory) (a : Nat) : Nat → Nat → Memory
  | 0, _ => m
  | n + 1, v => Memory.write (poke m (a + 1) n (v / 256)) a (BitVec.ofNat 8 v)

/-- `S64`: 64-bit mode, privilege level 0, the pointer at RAX, the revision word where it points, `vmxon [rax]`. -/
def s64 : State :=
  { State.reset with
    regs := ((Vector.replicate 16 0#64).set 0 0x100000).set 5 0x8000
    seg := ⟨flat, flat, flat, flat, flat, flat⟩, cr0 := 0x80050033, cr4 := 0x2020, rflags := 0xAD7
    eferLma := true, csL := true, featureControl := 5, monitorArmed := true, rtitTraceEn := true, rip := 0x1000
    cfg := chip
    mem := poke (poke (poke [] 0x1000 4 0x30C70FF3) 0x100000 8 0x203000) 0x203000 4 4 }

/-- Protected mode with 32-bit code, as in V2. -/
def s32 : State := { s64 with eferLma := false, csL := false, csD := true }

/-- The same with 16-bit code. -/
def s16 : State := { s32 with csD := false }

/-- The pointer in the operand is another one, at which the revision word is `rev`. -/
def withPointer (s : State) (p rev : Nat) : State := { s with mem := poke (poke s.mem 0x100000 8 p) p 4 rev }

/-- `vmxon [rax]`, `vmxon [eax]` and `vmxon [rbp]`. -/
def rax : VmxonForm := ⟨.m64, [.mandatory], none, .based 0 .absent⟩
def eax : VmxonForm := ⟨.m32, [.mandatory], none, .based 0 .absent⟩
def rbp : VmxonForm := ⟨.m64, [.mandatory], none, .based 5 (.byte 0)⟩
def ebp : VmxonForm := ⟨.m32, [.mandatory], none, .based 5 (.byte 0)⟩

/-- The state after V1. -/
def entered : State :=
  { s64 with
    vmx := .root, currentVmcs := 0xFFFFFFFFFFFFFFFF, vmxonPtr := 0x203000, initBlocked := true, a20mBlocked := true
    monitorArmed := false, rtitTraceEn := false, rflags := 0x202, rip := 0x1004, draws := 12 }

/-- The physical addresses of the operand of `vmxon [rax]`. -/
def raxBytes : List Nat := [0x100000, 0x100001, 0x100002, 0x100003, 0x100004, 0x100005, 0x100006, 0x100007]

/-- V1. -/
theorem test_vmxon_succeeds : step s64 = .next entered := by rfl

/-- V52: VMfailValid(15) in VMX root operation with a current VMCS. -/
theorem test_vmxon_in_root_operation :
    exec (.vmxon rax) { s64 with vmx := .root, currentVmcs := 0x300000 } =
      .next { s64 with vmx := .root, currentVmcs := 0x300000, rflags := 0x242, vmInstructionError := 15, rip := 0x1004 } := by
  rfl

/-! ## Witnesses: the encoding statements -/

theorem witness_decode_of_encode :
    (Instr.vmxon ⟨.m64, [.segment .fs, .addressSize, .mandatory], some ⟨true, true, true, true⟩,
      .sibNoBase 3 7 0x80000000⟩).wf = true := by decide

theorem witness_decoded_bytes : decode .m64 [0xF3, 0x0F, 0xC7, 0x30, 0x90] = .ok (.vmxon rax, [0x90]) := by decide

theorem witness_length : rax.wf = true ∧ rax.length = 4 ∧
    (form .m64 [.segment .fs, .addressSize, .mandatory] none (.sib 0 0 0 (.wide 0))).length = 11 := by decide

theorem witness_admitted_prefixes : (0xF0#8 ∈ [0x66#8, 0xF2#8, 0xF0#8]) ∧
    decode .m64 [0x64, 0x67, 0xF3, 0x41, 0x0F, 0xC7, 0x30] =
      .ok (.vmxon ⟨.m64, [.segment .fs, .addressSize, .mandatory], some ⟨false, false, false, true⟩,
        .based 0 .absent⟩, []) := by decide

theorem witness_rex_byte : (0x40#8).extractLsb' 4 4 = 4#4 ∧ (0x4F#8).extractLsb' 4 4 = 4#4 ∧
    CodeMode.m32 ≠ CodeMode.m64 ∧ [0xF3#8, 0x0F#8].head? ≠ some 0x0F#8 := by decide

/-! ## Witnesses: the step -/

theorem witness_step_executes :
    (Instr.vmxon rax).wf = true ∧ (Instr.vmxon rax).mode = s64.codeMode ∧
      ∀ (k : Nat) (b : Byte), (encode (.vmxon rax))[k]? = some b → s64.fetchByte k = some b := by
  refine ⟨by decide, by decide, fun k b h => ?_⟩
  rcases k with _ | _ | _ | _ | k
  · cases h; decide
  · cases h; decide
  · cases h; decide
  · cases h; decide
  · exact absurd h (by simp [encode, VmxonForm.toBytes, rax, Operand.toBytes, Disp.toBytes])

theorem witness_step_moves : step s64 = .next entered ∧
    step { entered with rip := 0x1000 } = .next { entered with rflags := 0x203 } := ⟨rfl, rfl⟩

/-! ## Witnesses: recognized, permitted, operand -/

theorem recognized_s64 : Recognized rax s64 := invalidOpcode_false.1 (by decide)

theorem permitted_s64 : Permitted s64 := entryProhibited_false.1 (by decide)

theorem operand_s64 : OperandAt rax s64 raxBytes := operandAt_of_translateAll (by decide) (by rfl)

/-- Each of the five causes of #UD. -/
theorem witness_invalid_opcode :
    exec (.vmxon ⟨.m64, [.mandatory], none, .register 0⟩) s64 = .fault .ud ∧
    exec (.vmxon rax) { s64 with cr0 := 0x80050032 } = .fault .ud ∧
    exec (.vmxon rax) { s64 with cr4 := 0x20 } = .fault .ud ∧
    exec (.vmxon eax) { s32 with rflags := 0x20AD7, cpl := 3 } = .fault .ud ∧
    exec (.vmxon eax) { s64 with csL := false, vmx := .nonRoot } = .fault .ud := ⟨rfl, rfl, rfl, rfl, rfl⟩

/-- Each cause of #GP(0). -/
theorem witness_general_protection :
    exec (.vmxon rax) { s64 with vmx := .root, cpl := 1 } = .fault (.gp 0) ∧
    exec (.vmxon rax) { s64 with cpl := 1 } = .fault (.gp 0) ∧
    exec (.vmxon eax) { s32 with a20mMode := true } = .fault (.gp 0) ∧
    exec (.vmxon rax) { s64 with cr0 := 0x80050013 } = .fault (.gp 0) ∧
    exec (.vmxon rax) { s64 with cr4 := 0x402020 } = .fault (.gp 0) ∧
    exec (.vmxon rax) { s64 with featureControl := 6 } = .fault (.gp 0) ∧
    exec (.vmxon rax) { s64 with featureControl := 5, smx := true } = .fault (.gp 0) ∧
    exec (.vmxon rax) { s64 with featureControl := 3 } = .fault (.gp 0) ∧
    exec (.vmxon rax) { s64 with regs := s64.regs.set 0 0x00007FFFFFFFFFF9 } = .fault (.gp 0) :=
  ⟨rfl, rfl, rfl, rfl, rfl, rfl, rfl, rfl, rfl⟩

/-- #SS(0): one byte beyond the limit, an unusable SS, one byte that is not canonical. -/
theorem witness_stack_fault :
    exec (.vmxon ebp) { s32 with regs := s32.regs.set 5 0xFFF9, seg := { s32.seg with ss := ⟨0, 0xFFFF, false, false⟩ } } =
      .fault (.ss 0) ∧
    exec (.vmxon ebp) { s32 with seg := { s32.seg with ss := ⟨0, 0xFFFFFFFF, true, false⟩ } } = .fault (.ss 0) ∧
    exec (.vmxon rbp) { s64 with regs := s64.regs.set 5 0x00007FFFFFFFFFF9 } = .fault (.ss 0) := ⟨rfl, rfl, rfl⟩

/-- `s64` with one page not present. -/
def missing (s : State) (page : Nat) : State := { s with cfg := { s.cfg with translate := .pages ⟨[⟨page, .read, .fault 0⟩], true, 0⟩ } }

/-- V39, V40 and the last byte alone; R129: where every page faults and the operand wraps around the top, the
lower-addressed page is that of address 0. -/
theorem witness_page_fault :
    exec (.vmxon rax) (missing { s64 with regs := s64.regs.set 0 0x300000 } 0x300) = .fault (.pf 0 0x300000) ∧
    exec (.vmxon rax) (missing { s64 with regs := s64.regs.set 0 0x300FFC } 0x301) = .fault (.pf 0 0x301000) ∧
    exec (.vmxon rax) (missing { s64 with regs := s64.regs.set 0 0x300FF9 } 0x301) = .fault (.pf 0 0x301000) ∧
    exec (.vmxon rax) { s64 with
      regs := s64.regs.set 0 0xFFFFFFFFFFFFFFFC, cfg := { chip with translate := .pages ⟨[], false, 4⟩ } } =
        .fault (.pf 4 0) :=
  ⟨rfl, rfl, rfl, rfl⟩

theorem witness_vm_exit : exec (.vmxon rax) { s64 with vmx := .nonRoot, cpl := 3 } = .fault .vmExit := by rfl

/-- One exception of each vector and the VM exit. -/
theorem witness_raised :
    exec (.vmxon rax) { s64 with cr4 := 0 } = .fault .ud ∧ exec (.vmxon rax) { s64 with cpl := 3 } = .fault (.gp 0) ∧
    exec (.vmxon rbp) { s64 with regs := s64.regs.set 5 0x0000800000000000 } = .fault (.ss 0) ∧
    exec (.vmxon rax) (missing s64 0x100) = .fault (.pf 0 0x100000) ∧
    exec (.vmxon rax) { s64 with vmx := .nonRoot } = .fault .vmExit := ⟨rfl, rfl, rfl, rfl, rfl⟩

/-! ## Witnesses: completion -/

theorem witness_root_completes :
    (Recognized rax { s64 with vmx := .root, currentVmcs := 0xFFFFFFFFFFFFFFFF } ∧ s64.cpl = 0#2) ∧
    (Recognized rax { s64 with vmx := .root, currentVmcs := 0x300000 } ∧ (0x300000#64 ≠ 0xFFFFFFFFFFFFFFFF#64)) :=
  ⟨⟨invalidOpcode_false.1 (by decide), by decide⟩, invalidOpcode_false.1 (by decide), by decide⟩

theorem witness_root_above_cpl_zero : Recognized rax { s64 with vmx := .root, cpl := 1 } ∧ (1#2 : BitVec 2) ≠ 0#2 :=
  ⟨invalidOpcode_false.1 (by decide), by decide⟩

/-- `s64` on a chip whose IA32_VMX_BASIC[48] is 1, with a pointer of 2^32. -/
def narrow : State := { withPointer s64 (2 ^ 32) 4 with cfg := { chip with vmxBasic48 := true } }

/-- Each reason to reject the pointer, at the boundary: 0x203001, 2^46, and 2^32 with IA32_VMX_BASIC[48] = 1. -/
theorem witness_rejected_pointer :
    (Recognized rax (withPointer s64 0x203001 4) ∧ (withPointer s64 0x203001 4).vmx = .off ∧
      Permitted (withPointer s64 0x203001 4) ∧ OperandAt rax (withPointer s64 0x203001 4) raxBytes ∧
      pointerAt (withPointer s64 0x203001 4) raxBytes % 4096 ≠ 0) ∧
    (Recognized rax (withPointer s64 (2 ^ 46) 4) ∧ (withPointer s64 (2 ^ 46) 4).vmx = .off ∧
      Permitted (withPointer s64 (2 ^ 46) 4) ∧ OperandAt rax (withPointer s64 (2 ^ 46) 4) raxBytes ∧
      2 ^ chip.physAddrWidth ≤ pointerAt (withPointer s64 (2 ^ 46) 4) raxBytes) ∧
    (Recognized rax narrow ∧ narrow.vmx = .off ∧ Permitted narrow ∧ OperandAt rax narrow raxBytes ∧
      narrow.cfg.vmxBasic48 = true ∧ 2 ^ 32 ≤ pointerAt narrow raxBytes) := by
  refine ⟨⟨?_, rfl, ?_, ?_, by decide⟩, ⟨?_, rfl, ?_, ?_, by decide⟩, ⟨?_, rfl, ?_, ?_, rfl, by decide⟩⟩
  · exact invalidOpcode_false.1 (by decide)
  · exact entryProhibited_false.1 (by decide)
  · exact operandAt_of_translateAll (by decide) (by rfl)
  · exact invalidOpcode_false.1 (by decide)
  · exact entryProhibited_false.1 (by decide)
  · exact operandAt_of_translateAll (by decide) (by rfl)
  · exact invalidOpcode_false.1 (by decide)
  · exact entryProhibited_false.1 (by decide)
  · exact operandAt_of_translateAll (by decide) (by rfl)

/-- With IA32_VMX_BASIC[48] = 1 the highest usable pointer, 2^32 - 4096, is accepted. -/
def narrowTop : State := { withPointer s64 (2 ^ 32 - 4096) 4 with cfg := { chip with vmxBasic48 := true } }

theorem witness_accepted_pointer :
    Recognized rax narrowTop ∧ narrowTop.vmx = .off ∧ Permitted narrowTop ∧ OperandAt rax narrowTop raxBytes ∧
    narrowTop.cfg.vmxBasic48 = true ∧
    ¬(pointerAt narrowTop raxBytes % 4096 ≠ 0 ∨ 2 ^ narrowTop.cfg.physAddrWidth ≤ pointerAt narrowTop raxBytes ∨
      (narrowTop.cfg.vmxBasic48 = true ∧ 2 ^ 32 ≤ pointerAt narrowTop raxBytes)) ∧
    revisionAt narrowTop (pointerAt narrowTop raxBytes) = narrowTop.cfg.vmcsRevisionId.toNat :=
  ⟨invalidOpcode_false.1 (by decide), rfl, entryProhibited_false.1 (by decide),
    operandAt_of_translateAll (by decide) (by rfl), rfl, by decide, by decide⟩

/-- Bit 31 alone, and an identifier one off. -/
theorem witness_rejected_revision :
    Recognized rax s64 ∧ s64.vmx = .off ∧ Permitted s64 ∧
    (OperandAt rax (withPointer s64 0x203000 0x80000004) raxBytes ∧
      usablePointer chip (pointerAt (withPointer s64 0x203000 0x80000004) raxBytes) ∧
      (0x80000004#32).toNat = revisionAt (withPointer s64 0x203000 0x80000004) 0x203000 ∧
      (0x80000004#32).getLsbD 31 = true) ∧
    (OperandAt rax (withPointer s64 0x203000 5) raxBytes ∧
      usablePointer chip (pointerAt (withPointer s64 0x203000 5) raxBytes) ∧
      (5#32).toNat = revisionAt (withPointer s64 0x203000 5) 0x203000 ∧ (5#32).extractLsb' 0 31 ≠ 4#31) :=
  ⟨recognized_s64, rfl, permitted_s64,
    ⟨operandAt_of_translateAll (by decide) (by rfl), ⟨by decide, by decide, by decide⟩, by decide, by decide⟩,
    ⟨operandAt_of_translateAll (by decide) (by rfl), ⟨by decide, by decide, by decide⟩, by decide, by decide⟩⟩

/-- Ready for entry, also with the highest pointer (V6) and with the pointer 0. -/
theorem witness_ready :
    EntryReady rax s64 (0x203000#64).toNat ∧
    EntryReady rax (withPointer s64 0x3FFFFFFFF000 4) (0x3FFFFFFFF000#64).toNat ∧
    EntryReady rax (withPointer s64 0 4) (0#64).toNat := by
  refine ⟨⟨recognized_s64, rfl, permitted_s64, ⟨raxBytes, operand_s64, by decide⟩, ⟨by decide, by decide, by decide⟩,
    by decide⟩, ⟨invalidOpcode_false.1 (by decide), rfl, entryProhibited_false.1 (by decide),
    ⟨raxBytes, operandAt_of_translateAll (by decide) (by rfl), by decide⟩, ⟨by decide, by decide, by decide⟩,
    by decide⟩, ⟨invalidOpcode_false.1 (by decide), rfl, entryProhibited_false.1 (by decide),
    ⟨raxBytes, operandAt_of_translateAll (by decide) (by rfl), by decide⟩, ⟨by decide, by decide, by decide⟩,
    by decide⟩⟩

/-- Ready in protected mode too. -/
theorem witness_ready_protected : EntryReady eax s32 (0x203000#64).toNat :=
  ⟨invalidOpcode_false.1 (by decide), rfl, entryProhibited_false.1 (by decide),
    ⟨raxBytes, operandAt_of_translateAll (by decide) (by rfl), by decide⟩, ⟨by decide, by decide, by decide⟩, by decide⟩

theorem witness_entry_happens : s64.vmx = .off ∧ exec (.vmxon rax) s64 = .next entered ∧ entered.vmx = .root :=
  ⟨rfl, rfl, rfl⟩

theorem witness_second_vmxon :
    s64.vmx = .off ∧ exec (.vmxon rax) s64 = .next entered ∧ entered.vmx = .root ∧ ∀ rm, eax.operand ≠ .register rm :=
  ⟨rfl, rfl, rfl, fun _ h => by cases h⟩

/-! ## Witnesses: what changes and what does not -/

/-- A next state of each outcome: success, both failures outside VMX operation, both in it. -/
theorem witness_next_states :
    exec (.vmxon rax) s64 = .next entered ∧
    exec (.vmxon rax) (withPointer s64 0x203000 5) =
      .next { withPointer s64 0x203000 5 with rflags := 0x203, rip := 0x1004, draws := 12 } ∧
    exec (.vmxon rax) (withPointer s64 0x203001 4) =
      .next { withPointer s64 0x203001 4 with rflags := 0x203, rip := 0x1004, draws := 8 } ∧
    exec (.vmxon rax) { entered with rip := 0 } = .next { entered with rflags := 0x203, rip := 4 } ∧
    exec (.vmxon rax) { entered with currentVmcs := 0x300000 } =
      .next { entered with currentVmcs := 0x300000, rflags := 0x242, rip := 0x1008, vmInstructionError := 15 } :=
  ⟨rfl, rfl, rfl, rfl, rfl⟩

theorem witness_old_flags : (0x202#64 &&& ~~~0x8D5#64) = s64.rflags &&& ~~~0x8D5#64 := by decide

theorem witness_unchanged_flag : 9 ∉ [0, 2, 4, 6, 7, 11] ∧ 17 ∉ [0, 2, 4, 6, 7, 11] := by decide

/-- The first and last byte of the owned region and the bytes on both sides of it. -/
theorem witness_owned_boundaries :
    physPopulated entered.cfg 0x202FFF = true ∧ physPopulated entered.cfg 0x204000 = true ∧ s64.vmx = .off ∧ exec (.vmxon rax) s64 = .next entered ∧ entered.vmx = .root ∧
    entered.vmxonPtr.toNat ≤ 0x203000 ∧ 0x203FFF < entered.vmxonPtr.toNat + 4096 ∧
    ¬(entered.vmxonPtr.toNat ≤ 0x202FFF) ∧ ¬(0x204000 < entered.vmxonPtr.toNat + 4096) :=
  ⟨by decide, by decide, rfl, rfl, rfl, by decide, by decide, by decide, by decide⟩

/-- The instruction pointer wraps at 64, 32 and 16 bits. -/
theorem witness_rip :
    exec (.vmxon rax) { entered with rip := 0xFFFFFFFFFFFFFFFE } = .next { entered with rflags := 0x203, rip := 2 } ∧
    exec (.vmxon rax) { entered with csL := false, eferLma := false, csD := true, rip := 0xFFFFFFFE } =
      .next { entered with csL := false, eferLma := false, csD := true, rflags := 0x203, rip := 2 } ∧
    exec (.vmxon rax) { entered with csL := false, eferLma := false, rip := 0xFFFE } =
      .next { entered with csL := false, eferLma := false, rflags := 0x203, rip := 2 } := ⟨rfl, rfl, rfl⟩

theorem witness_operand_not_read :
    ({ s64 with vmx := .nonRoot } : State).vmx ≠ .off ∧ exec (.vmxon rax) { s64 with vmx := .nonRoot } = .fault .vmExit ∧
    entered.vmx ≠ .off ∧ exec (.vmxon rax) entered = .next { entered with rflags := 0x203, rip := 0x1008 } :=
  ⟨by decide, rfl, by decide, rfl⟩

/-! ## Witnesses: the operand -/

/-- `mod` 00 with `rm` 110 and with `rm` 111, and `mod` 01 with `rm` 110. -/
theorem witness_sixteen_bit :
    (form .m16 [.mandatory] none (.absolute16 0xFFFF)).wf = true ∧
    (form .m16 [.mandatory] none (.absolute16 0xFFFF)).addrSize = .a16 ∧
    (Operand.absolute16 0xFFFF).toBytes = (0#2 ++ 6#3 ++ 6#3 : BitVec 8) :: [0xFF, 0xFF] ∧
    (form .m32 [.addressSize, .mandatory] none (.based16 .bx .absent)).wf = true ∧
    (form .m32 [.addressSize, .mandatory] none (.based16 .bx .absent)).addrSize = .a16 ∧
    (Operand.based16 .bx .absent).toBytes = (0#2 ++ 6#3 ++ 7#3 : BitVec 8) :: [] ∧
    (form .m16 [.mandatory] none (.based16 .bp (.byte 0x80))).wf = true ∧
    (Operand.based16 .bp (.byte 0x80)).toBytes = (1#2 ++ 6#3 ++ 6#3 : BitVec 8) :: [0x80] := by decide

/-- A base register, disp32 alone, SIB without base, SIB with base. -/
theorem witness_thirty_two_bit :
    (form .m32 [.mandatory] none (.based 5 (.byte 0x80))).wf = true ∧ CodeMode.m32 ≠ .m64 ∧
    (form .m32 [.mandatory] none (.based 5 (.byte 0x80))).addrSize = .a32 ∧
    (Operand.based 5 (.byte 0x80)).toBytes = (1#2 ++ 6#3 ++ 5#3 : BitVec 8) :: [0x80] ∧
    (form .m32 [.mandatory] none (.displacement32 1)).wf = true ∧
    (Operand.displacement32 1).toBytes = (0#2 ++ 6#3 ++ 5#3 : BitVec 8) :: [1, 0, 0, 0] ∧
    (form .m16 [.addressSize, .mandatory] none (.sibNoBase 3 4 1)).wf = true ∧
    (form .m16 [.addressSize, .mandatory] none (.sibNoBase 3 4 1)).addrSize = .a32 ∧
    (Operand.sibNoBase 3 4 1).toBytes = (0#2 ++ 6#3 ++ 4#3 : BitVec 8) :: [0b11100101, 1, 0, 0, 0] ∧
    (form .m32 [.mandatory] none (.sib 3 7 4 .absent)).wf = true ∧
    (Operand.sib 3 7 4 .absent).toBytes = (0#2 ++ 6#3 ++ 4#3 : BitVec 8) :: [0b11111100] := by decide

/-- The same four kinds in 64-bit mode, with and without `67`. -/
theorem witness_sixty_four_bit :
    (form .m64 [.mandatory] (some ⟨false, false, false, true⟩) (.based 0 .absent)).wf = true ∧
    (Operand.based 0 .absent).toBytes = (0#2 ++ 6#3 ++ 0#3 : BitVec 8) :: [] ∧
    (form .m64 [.addressSize, .mandatory] none (.displacement32 0x80000000)).wf = true ∧
    (Operand.displacement32 0x80000000).toBytes = (0#2 ++ 6#3 ++ 5#3 : BitVec 8) :: [0, 0, 0, 0x80] ∧
    (form .m64 [.mandatory] (some ⟨false, false, true, false⟩) (.sibNoBase 0 4 1)).wf = true ∧
    (Operand.sibNoBase 0 4 1).toBytes = (0#2 ++ 6#3 ++ 4#3 : BitVec 8) :: [0b00100101, 1, 0, 0, 0] ∧
    (form .m64 [.mandatory] (some ⟨false, false, false, true⟩) (.sib 0 4 5 (.byte 0))).wf = true ∧
    (Operand.sib 0 4 5 (.byte 0)).toBytes = (1#2 ++ 6#3 ++ 4#3 : BitVec 8) :: [0b00100101, 0] := by decide

/-- RIP-relative with `67` in 64-bit mode, and without. -/
theorem witness_rip_relative :
    (form .m64 [.addressSize, .mandatory] none (.displacement32 0xFFFFFFFF)).wf = true ∧
    [LegacyPrefix.addressSize, .mandatory].contains .addressSize = true ∧
    (form .m64 [.mandatory] none (.displacement32 0xF8)).wf = true ∧
    [LegacyPrefix.mandatory].contains .addressSize = false ∧
    (Operand.displacement32 0xF8).toBytes = (0#2 ++ 6#3 ++ 5#3 : BitVec 8) :: [0xF8, 0, 0, 0] := by decide

/-- Registers that differ above bit 31 only. -/
theorem witness_register_width :
    eax.wf = true ∧ s64.rip = s32.rip ∧
    ∀ n : BitVec 4, (s32.gpr n).setWidth eax.addrSize.bits =
      (({ s32 with regs := s32.regs.set 0 0xFFFFFFFF00100000 } : State).gpr n).setWidth eax.addrSize.bits := by decide

/-- No override, an override that counts outside 64-bit mode, one that counts in it, one that does not. -/
theorem witness_override :
    rax.wf = true ∧ (∀ r, LegacyPrefix.segment r ∉ rax.prefixes) ∧
    ((form .m32 [.segment .cs, .mandatory] none (.based 0 .absent)).wf = true ∧ CodeMode.m32 ≠ .m64) ∧
    (form .m64 [.segment .fs, .mandatory] none (.based 0 .absent)).wf = true ∧
    ((form .m64 [.segment .ss, .mandatory] none (.based 0 .absent)).wf = true ∧ SegReg.ss ≠ .fs ∧ SegReg.ss ≠ .gs) := by
  refine ⟨by decide, fun r => by cases r <;> decide, by decide, by decide, by decide⟩

/-- The last byte on the limit and one beyond it; each of the three results; the last offset of a 32-bit limit. -/
theorem witness_segment_test :
    s32.is64 = false ∧
    ({ s32 with seg := { s32.seg with ds := ⟨0, 0xFFFF, false, false⟩ } } : State).segCheck .ds 0xFFF8 8 = none ∧
    ({ s32 with seg := { s32.seg with ds := ⟨0, 0xFFFF, false, false⟩ } } : State).segCheck .ds 0xFFF9 8 = some (.gp 0) ∧
    ({ s32 with seg := { s32.seg with ss := ⟨0, 0xFFFF, false, false⟩ } } : State).segCheck .ss 0xFFF9 8 = some (.ss 0) ∧
    ({ s32 with seg := { s32.seg with es := ⟨0, 0xFFFF, true, false⟩ } } : State).segCheck .es 0 8 = some (.gp 0) ∧
    ({ s32 with seg := { s32.seg with cs := ⟨0, 0xFFFF, false, true⟩ } } : State).segCheck .cs 0 8 = some (.gp 0) ∧
    s32.cfg.segCheck = .lastOffset ∧ s32.insideLimit .ds 0xFFFFFFFF = true ∧ s32.insideLimit .ds 0x100000000 = false := by
  decide

/-- The canonical boundaries at widths 48 and 57, and a base of FS. -/
theorem witness_canonical :
    s64.is64 = true ∧
    s64.segCheck .ds 0x00007FFFFFFFFFF8 8 = none ∧ s64.segCheck .ds 0x00007FFFFFFFFFF9 8 = some (.gp 0) ∧
    s64.segCheck .ss 0xFFFF800000000000 8 = none ∧ s64.segCheck .ss 0xFFFF7FFFFFFFFFFF 8 = some (.ss 0) ∧
    ({ s64 with cfg := { chip with linearAddrWidth := .w57 } } : State).segCheck .ds 0x00FFFFFFFFFFFFF8 8 = none ∧
    ({ s64 with cfg := { chip with linearAddrWidth := .w57 } } : State).segCheck .ds 0x00FFFFFFFFFFFFF9 8 = some (.gp 0) ∧
    ({ s64 with seg := { s64.seg with fs := { flat with base := 0x0000800000000000 } } } : State).segCheck .fs 0 8 =
      some (.gp 0) := by decide

theorem witness_little_endian :
    s64.segCheck .ds 0x100000 8 = none ∧
    (∀ k : Fin 8, s64.translate (s64.linearAddr .ds (0x100000 + BitVec.ofNat 64 k)) .read = .ok (0x100000 + k.val)) ∧
    (∀ k : Fin 8, s64.presentByte (0x100000 + k.val) =
      some ([0x00#8, 0x30#8, 0x20#8, 0x00#8, 0x00#8, 0x00#8, 0x00#8, 0x00#8][k])) ∧
    s64.presentByte 0x203000 = some 4#8 ∧ s64.presentByte 0x203001 = some 0#8 ∧ s64.presentByte 0x203002 = some 0#8 ∧
    s64.presentByte 0x203003 = some 0#8 :=
  ⟨by decide, fun k => by fin_cases k <;> rfl, by decide, by decide, by decide, by decide, by decide⟩

/-- Paging off and on, with a translation and with a page fault, at the highest address below the width. -/
theorem witness_translation :
    ({ s64 with cr0 := 0x00050033 } : State).cr0.getLsbD 31 = false ∧ s64.cr0.getLsbD 31 = true ∧
    s64.cfg.legal = true ∧ s64.translate 0x3FFFFFFFFFFF .read = .ok 0x3FFFFFFFFFFF ∧
    s64.translate 0x400000000000 .read = .error ⟨0, 0x400000000000⟩ :=
  ⟨by decide, by decide, by decide, rfl, rfl⟩

/-- IA32_FEATURE_CONTROL[2:0] that pass and that do not, outside SMX operation and in it. -/
theorem witness_feature_control :
    Recognized rax s64 ∧ s64.vmx = .off ∧ Permitted s64 ∧
    s64.featureControl.extractLsb' 0 3 ∈ [0b101#3, 0b111#3] ∧ (3#64).extractLsb' 0 3 ∉ [0b101#3, 0b111#3] ∧
    (3#64).extractLsb' 0 3 ∈ [0b011#3, 0b111#3] ∧ s64.featureControl.extractLsb' 0 3 ∉ [0b011#3, 0b111#3] ∧
    exec (.vmxon rax) { s64 with regs := s64.regs.set 0 0x0000800000000000 } = .fault (.gp 0) :=
  ⟨recognized_s64, rfl, permitted_s64, by decide, by decide, by decide, by decide, rfl⟩

/-- The fixed bits of the chip, and a predicate that no four masks are: CR0 and CR4 are not both 0. -/
theorem witness_cr_predicate :
    s64.cfg.cr0Cr4Supported = .fixedBits 0x80000021 0xFFFFFFFF 0x2000 0x3767FF ∧
    CrPredicate.holds 1 0 (.negated (.fixedBits 0 0 0 0)) = true ∧
    CrPredicate.holds 0 1 (.negated (.fixedBits 0 0 0 0)) = true ∧
    CrPredicate.holds 0 0 (.negated (.fixedBits 0 0 0 0)) = false := by decide

/-- Owned, written, in memory but not written, and past the last populated address. -/
theorem witness_byte_reads :
    s64.a20mMode = false ∧ entered.vmx ≠ .off ∧ entered.vmxonPtr.toNat ≤ 0x203000 ∧
    Memory.read s64.mem 0x100001 = some 0x30 ∧ Memory.read s64.mem (2 ^ 46 - 1) = none ∧
    (⟨0, 2 ^ 46⟩ : PhysRange) ∈ s64.cfg.physPopulated ∧ Memory.read s64.mem (2 ^ 46) = none ∧
    ¬(2 ^ 46 < 2 ^ s64.cfg.physAddrWidth) := by decide

/-! ## Witnesses: runs, reset, invariant, outside world -/

/-- A run that ends normally, one that is cut off, one that faults, one that is refused. -/
theorem witness_runs :
    run 0x1004 1 s64 = .ended entered ∧ run 0x2000 1 s64 = .running entered ∧
    run 0x1004 1 { s64 with cpl := 3 } = .fault (.gp 0) { s64 with cpl := 3 } ∧
    run 0x1004 1 { s64 with rip := 0x5000 } = .refused .noInstructionBytes { s64 with rip := 0x5000 } :=
  ⟨rfl, rfl, rfl, rfl⟩

theorem witness_reset_memory_form : ∀ rm, (form .m16 [.mandatory] none (.based16 .bxSi .absent)).operand ≠ .register rm :=
  fun _ h => by cases h

theorem inv_s64 : s64.Inv :=
  { memory := by decide, populated := by decide, cfgLegal := by decide, a20m := by decide, smx := by decide
    root := fun h => absurd h (by decide) }

theorem inv_entered : entered.Inv :=
  { memory := inv_s64.memory, populated := inv_s64.populated, cfgLegal := inv_s64.cfgLegal, a20m := by decide
    smx := by decide
    root := fun _ => ⟨rfl, rfl, ⟨by decide, by decide, by decide⟩, fun _ _ => rfl⟩ }

/-- From a state outside VMX operation and from one in it. -/
theorem witness_invariant :
    (s64.Inv ∧ step s64 = .next entered) ∧
    ({ entered with rip := 0x1000 } : State).Inv ∧
      step { entered with rip := 0x1000 } = .next { entered with rflags := 0x203 } :=
  ⟨⟨inv_s64, rfl⟩,
    { memory := inv_entered.memory, populated := inv_entered.populated, cfgLegal := inv_entered.cfgLegal
      a20m := inv_entered.a20m, smx := inv_entered.smx
      root := fun h => ⟨(inv_entered.root h).1, (inv_entered.root h).2, (inv_entered.root h).3, (inv_entered.root h).4⟩ }, rfl⟩

/-- A20M blocked and not blocked, and a store at the last physical address; one past it, and where there is no memory. -/
theorem witness_outside_world :
    s64.Inv ∧ entered.Inv ∧ s64.a20mBlocked = false ∧ entered.a20mBlocked = true ∧
    s64.softwareStore (2 ^ 46 - 1) 7 = .next { s64 with mem := Memory.write s64.mem (2 ^ 46 - 1) 7 } ∧
    s64.a20mMode = false ∧ s64.softwareStore (2 ^ 46) 7 = .refused .storeBeyondPhysicalWidth ∧
    Memory.read s64.mem 0x5000 = none ∧ physPopulated { chip with physPopulated := [⟨0x6000, 1⟩] } 0x5000 = false ∧
    physPopulated { chip with physPopulated := [⟨0x6000, 1⟩] } 0x6000 = true ∧
    physPopulated { chip with physPopulated := [⟨0x6000, 1⟩] } 0x6001 = false :=
  ⟨inv_s64, inv_entered, rfl, rfl, rfl, rfl, rfl, by decide, by decide, by decide, by decide⟩

/-- All hypotheses of the statement about free bytes. -/
theorem witness_present_bytes :
    s64.vmx = .off ∧ OperandAt rax s64 raxBytes ∧ (∀ pa ∈ raxBytes, s64.drawn pa = false) ∧
    (∀ k < 4, s64.drawn (pointerAt s64 raxBytes + k) = false) ∧ exec (.vmxon rax) s64 = .next entered :=
  ⟨rfl, operand_s64, by decide, by decide, rfl⟩

end Sys2Proof.Tests
end

/-! PROOFS. The scope statements (spec/00_scope.md R4, R8): the outcomes of one execution, the model's own fields, and
the parameter `Cr0Cr4Supported`. -/

namespace Sys2Proof.Machine

/-! ## The completion conventions -/

/-- The one instruction means `execVmxon`. -/
theorem exec_vmxon (f : VmxonForm) (s : State) : exec (.vmxon f) s = execVmxon f s := rfl

@[simp] theorem writeStatus_succeedFlags (r : Word64) : writeStatus succeedFlags r = r &&& ~~~0x8D5#64 := by
  simp [writeStatus, statusMask, show succeedFlags.bits = 0#64 by decide]

@[simp] theorem writeStatus_failInvalidFlags (r : Word64) :
    writeStatus failInvalidFlags r = (r &&& ~~~0x8D5#64) ||| 0x1#64 := by
  simp [writeStatus, statusMask, show failInvalidFlags.bits = 0x1#64 by decide]

@[simp] theorem writeStatus_failValidFlags (r : Word64) :
    writeStatus failValidFlags r = (r &&& ~~~0x8D5#64) ||| 0x40#64 := by
  simp [writeStatus, statusMask, show failValidFlags.bits = 0x40#64 by decide]

/-- R108: VMfail is VMfailInvalid without a current VMCS and VMfailValid with one. -/
theorem State.vmFail_cases (s : State) (error : BitVec 32) (len : Nat) :
    (s.currentVmcs = noCurrentVmcs ∧ s.vmFail error len = s.done failInvalidFlags len) ∨
      (s.currentVmcs ≠ noCurrentVmcs ∧ s.vmFail error len = s.vmFailValid error len) := by
  unfold State.vmFail
  split
  · exact .inl ⟨‹_›, rfl⟩
  · exact .inr ⟨‹_›, rfl⟩

@[simp] theorem State.vmFail_cfg (s : State) (error : BitVec 32) (len : Nat) : (s.vmFail error len).cfg = s.cfg := by
  rcases s.vmFail_cases error len with ⟨-, e⟩ | ⟨-, e⟩ <;> rw [e] <;> rfl

@[simp] theorem State.vmFail_draws (s : State) (error : BitVec 32) (len : Nat) :
    (s.vmFail error len).draws = s.draws := by
  rcases s.vmFail_cases error len with ⟨-, e⟩ | ⟨-, e⟩ <;> rw [e] <;> rfl

/-- The next states of VMXON by the state they come from, each under its name. -/
theorem execVmxon_next_cases {f : VmxonForm} {s t : State} (h : execVmxon f s = .next t) :
    (s.vmx = .off ∧ (t = afterBadPointer f s ∨ t = afterBadRevision f s ∨ ∃ addr, t = afterEntry f s addr)) ∨
      (s.vmx = .root ∧ t = s.vmFail vmxonInRootError f.length) := by
  obtain ⟨-, ⟨hoff, -, v, -, hpointer | hrevision | hentry⟩ | ⟨hroot, -, ht⟩⟩ := execVmxon_next h
  · exact .inl ⟨hoff, .inl hpointer.2⟩
  · exact .inl ⟨hoff, .inr (.inl hrevision.2.2)⟩
  · exact .inl ⟨hoff, .inr (.inr ⟨_, hentry.2.2⟩)⟩
  · exact .inr ⟨hroot, ht⟩

/-! ## The eight outcomes (R8) -/

/-- What a read of the operand raises: #GP(0) or #SS(0) from the segment test, #PF from the translation. -/
theorem State.memRead_error_cases {s : State} {r : SegReg} {ea : Word64} {n : Nat} {e : Fault}
    (h : s.memRead r ea n = .error e) : e = .gp 0#32 ∨ e = .ss 0#32 ∨ ∃ c la, e = .pf c la := by
  rcases State.memRead_error.1 h with hseg | ⟨-, p, -, rfl⟩
  · rw [State.segCheck_some hseg]
    cases r <;> simp [segmentFault]
  · exact .inr (.inr ⟨_, _, rfl⟩)

/-- The five stops of VMXON. -/
theorem execVmxon_fault_cases {f : VmxonForm} {s : State} {e : Fault} (h : execVmxon f s = .fault e) :
    e = .ud ∨ e = .gp 0#32 ∨ e = .ss 0#32 ∨ (∃ c la, e = .pf c la) ∨ e = .vmExit := by
  obtain ⟨he, -⟩ | ⟨-, ⟨he, -⟩ | ⟨he, -⟩ | ⟨he, -⟩ | ⟨-, -, hread⟩⟩ := execVmxon_fault h
  · exact .inl he
  · exact .inr (.inr (.inr (.inr he)))
  · exact .inr (.inl he)
  · exact .inr (.inl he)
  · rcases State.memRead_error_cases hread with he | he | he
    · exact .inr (.inl he)
    · exact .inr (.inr (.inl he))
    · exact .inr (.inr (.inr (.inl he)))

/-- Reading the operand and entering VMX operation is never refused. -/
theorem tryEntry_ne_refused (f : VmxonForm) (s : State) (r : Refusal) : tryEntry f s ≠ .refused r := by
  cases hm : s.memRead (operandSegment f) (s.effectiveAddress f) 8 with
  | error e => simp [tryEntry_error hm]
  | ok v =>
    rw [tryEntry_ok hm]
    split_ifs <;> simp

/-- VMXON has a meaning in every state. -/
theorem execVmxon_ne_refused (f : VmxonForm) (s : State) (r : Refusal) : execVmxon f s ≠ .refused r := by
  by_cases hr : Recognized f s
  · cases hv : s.vmx with
    | off =>
      by_cases hp : Permitted s
      · rw [execVmxon_off hr hv hp]
        exact tryEntry_ne_refused f s r
      · simp [execVmxon_off_prohibited hr hv hp]
    | root =>
      rw [execVmxon_root hr hv]
      split_ifs <;> simp
    | nonRoot => simp [execVmxon_nonRoot hr hv]
  · simp [execVmxon_of_not_recognized hr]

/-- The three completions of VMXON: flags, error field and VMX mode of the state each ends in. -/
theorem execVmxon_completion {f : VmxonForm} {s t : State} (h : execVmxon f s = .next t) :
    (t.rflags = s.rflags &&& ~~~0x8D5#64 ∧ s.vmx = .off ∧ t.vmx = .root) ∨
      (t.rflags = (s.rflags &&& ~~~0x8D5#64) ||| 0x1#64 ∧ t.vmx = s.vmx) ∨
      (t.rflags = (s.rflags &&& ~~~0x8D5#64) ||| 0x40#64 ∧ t.vmInstructionError = 15#32 ∧ t.vmx = s.vmx) := by
  obtain ⟨hoff, rfl | rfl | ⟨addr, rfl⟩⟩ | ⟨-, rfl⟩ := execVmxon_next_cases h
  · exact .inr (.inl (by simp [afterBadPointer]))
  · exact .inr (.inl (by simp [afterBadRevision]))
  · exact .inl (by simp [afterEntry, hoff])
  · rcases s.vmFail_cases vmxonInRootError f.length with ⟨-, e⟩ | ⟨-, e⟩
    · exact .inr (.inl (by simp [e]))
    · exact .inr (.inr (by rw [e]; simp [vmxonInRootError]))

/-- Settles O14: the stops are those of `execVmxon_fault_cases`, the completions those of `execVmxon_completion`, and
there is no third kind of outcome. -/
theorem outcomeIsOneOfTheEight : Obligations.OutcomeIsOneOfTheEight := by
  intro f s
  rw [exec_vmxon]
  cases h : execVmxon f s with
  | next t => exact .inr (.inr (.inr (.inr (.inr ⟨t, rfl, execVmxon_completion h⟩))))
  | fault e =>
    rcases execVmxon_fault_cases h with rfl | rfl | rfl | ⟨c, la, rfl⟩ | rfl <;> simp
  | refused r => exact absurd h (execVmxon_ne_refused f s r)

/-! ## The model's own fields (log 4, 8) -/

/-- Settles O24: each of the four next states of VMXON says what it draws. -/
theorem stepKeepsTheParametersAndCountsTheDraws : Obligations.StepKeepsTheParametersAndCountsTheDraws := by
  intro s t h
  obtain ⟨⟨f⟩, -, -, hexec⟩ := step_next h
  rw [exec_vmxon] at hexec
  obtain ⟨hoff, rfl | rfl | ⟨addr, rfl⟩⟩ | ⟨hroot, rfl⟩ := execVmxon_next_cases hexec
  · simp [afterBadPointer, hoff]
  · simp [afterBadRevision, hoff]
  · simp [afterEntry, hoff]
  · simp [hroot]

/-! ## The parameter `Cr0Cr4Supported` (log 5) -/

/-- The pairs of values of CR0 and CR4 that a predicate rejects: finitely many, so they can be listed. -/
noncomputable def rejectedPairs (supported : Word64 → Word64 → Bool) : List (Word64 × Word64) :=
  (Finset.univ.filter fun v : Word64 × Word64 => supported v.1 v.2 = false).toList

theorem contains_rejectedPairs (supported : Word64 → Word64 → Bool) (cr0 cr4 : Word64) :
    (rejectedPairs supported).contains (cr0, cr4) = !supported cr0 cr4 := by
  rw [Bool.eq_iff_iff]
  simp [rejectedPairs]

/-- Settles O48: the predicate is the one that none of its rejected pairs meets. -/
theorem everyPredicateOnCr0AndCr4IsAConfiguration : Obligations.EveryPredicateOnCr0AndCr4IsAConfiguration := by
  intro supported c
  refine ⟨noneOf (rejectedPairs supported), fun cr0 cr4 => ?_⟩
  calc cr0Cr4Supported { c with cr0Cr4Supported := noneOf (rejectedPairs supported) } cr0 cr4
      = CrPredicate.holds cr0 cr4 (noneOf (rejectedPairs supported)) := rfl
    _ = !(rejectedPairs supported).contains (cr0, cr4) := holds_noneOf cr0 cr4 _
    _ = supported cr0 cr4 := by rw [contains_rejectedPairs, Bool.not_not]

end Sys2Proof.Machine

/-! PROOFS. The state statements (spec/10_state.md): the invariant, the reset state, and what a data read of one byte
gives. -/

namespace Sys2Proof.Machine

/-! ## The invariant under the updates of the state -/

/-- `State.RootInv` as the conjunction of its fields, for `simp`. -/
theorem State.rootInv_iff {s : State} :
    s.RootInv ↔ s.initBlocked = true ∧ s.a20mBlocked = true ∧ usablePointer s.cfg s.vmxonPtr.toNat ∧
      (s.cfg.ptSupported = true → s.cfg.ptAllowedInVmx = false → s.rtitTraceEn = false) :=
  ⟨fun h => ⟨h.initBlocked, h.a20mBlocked, h.pointer, h.trace⟩, fun ⟨hi, ha, hp, ht⟩ => ⟨hi, ha, hp, ht⟩⟩

/-- `State.Inv` as the conjunction of its fields, for `simp`. -/
theorem State.inv_iff {s : State} :
    s.Inv ↔ Memory.wf s.mem ∧ (∀ c ∈ s.mem, physPopulated s.cfg c.1 = true) ∧ s.cfg.legal = true ∧
      (s.a20mBlocked = true → s.a20mMode = false) ∧ (s.smx = true → s.cfg.smxSupported = true) ∧
      (s.vmx = .root → s.RootInv) :=
  ⟨fun h => ⟨h.memory, h.populated, h.cfgLegal, h.a20m, h.smx, h.root⟩,
    fun ⟨hm, hp, hc, ha, hs, hr⟩ => ⟨hm, hp, hc, ha, hs, hr⟩⟩

@[simp] theorem State.drew_inv {s : State} (n : Nat) : (s.drew n).Inv ↔ s.Inv := by
  simp [State.inv_iff, State.rootInv_iff]

@[simp] theorem State.done_inv {s : State} (flags : StatusFlags) (len : Nat) : (s.done flags len).Inv ↔ s.Inv := by
  simp [State.inv_iff, State.rootInv_iff]

@[simp] theorem State.vmFailValid_inv {s : State} (error : BitVec 32) (len : Nat) :
    (s.vmFailValid error len).Inv ↔ s.Inv := by
  simp [State.inv_iff, State.rootInv_iff]

@[simp] theorem State.vmFail_inv {s : State} (error : BitVec 32) (len : Nat) :
    (s.vmFail error len).Inv ↔ s.Inv := by
  rcases s.vmFail_cases error len with ⟨-, e⟩ | ⟨-, e⟩ <;> simp [e]

/-- R97 to R103: entry with a usable pointer, outside A20M mode, establishes what VMX root operation asks. -/
theorem State.Inv.enterVmx {s : State} (h : s.Inv) (ha20m : s.a20mMode = false) {addr : Word64}
    (haddr : usablePointer s.cfg addr.toNat) : (s.enterVmx addr).Inv where
  memory := h.memory
  populated := h.populated
  cfgLegal := h.cfgLegal
  a20m := fun _ => ha20m
  smx := h.smx
  root := fun _ =>
    { initBlocked := rfl
      a20mBlocked := rfl
      pointer := haddr
      trace := fun hsupported hallowed => by
        rw [State.enterVmx_cfg] at hsupported hallowed
        simp [hsupported, hallowed] }

/-- Every completion of VMXON keeps the invariant: only entry changes a field that the invariant speaks of. -/
theorem execVmxon_inv {f : VmxonForm} {s t : State} (h : s.Inv) (hexec : execVmxon f s = .next t) : t.Inv := by
  obtain ⟨-, ⟨-, hpermitted, v, -, hpointer | hrevision | hentry⟩ | ⟨-, -, rfl⟩⟩ := execVmxon_next hexec
  · obtain ⟨-, rfl⟩ := hpointer
    simpa [afterBadPointer] using h
  · obtain ⟨-, -, rfl⟩ := hrevision
    simpa [afterBadRevision] using h
  · obtain ⟨husable, -, rfl⟩ := hentry
    have hdrawn : ((s.drew 8).drew 4).Inv := by simpa using h
    simpa [afterEntry] using hdrawn.enterVmx hpermitted.notA20m husable
  · simpa using h

/-- Settles O42: a step is the fetched VMXON, whose completions keep the invariant. -/
theorem stepKeepsTheInvariant : Obligations.StepKeepsTheInvariant := by
  intro s t h hstep
  obtain ⟨⟨f⟩, -, -, hexec⟩ := step_next hstep
  exact execVmxon_inv h (exec_vmxon f s ▸ hexec)

/-! ## The outside world -/

/-- R23: the pin can put the processor in A20M mode only while A20M is not blocked. -/
theorem State.Inv.driveA20m {s : State} (h : s.Inv) (asserted : Bool) : (s.driveA20m asserted).Inv where
  memory := h.memory
  populated := h.populated
  cfgLegal := h.cfgLegal
  a20m := fun hblocked => by
    rw [State.driveA20m_a20mBlocked] at hblocked
    simp [hblocked]
  smx := h.smx
  root := fun hroot => by simpa [State.rootInv_iff] using h.root hroot

/-- Under the invariant the model holds bytes in populated memory only, so memory is where the platform says. -/
theorem State.Inv.physPopulated_of_hasMemory {s : State} (h : s.Inv) {pa : Nat} (hpa : s.hasMemory pa = true) :
    physPopulated s.cfg pa = true := by
  rcases Bool.or_eq_true_iff.1 hpa with hheld | hpopulated
  · obtain ⟨b, hb⟩ := Option.isSome_iff_exists.1 hheld
    exact h.populated (pa, b) (Memory.read_some_mem hb)
  · exact hpopulated

/-- Writing a byte of populated memory keeps the invariant. -/
theorem State.Inv.write {s : State} (h : s.Inv) {pa : Nat} (hpa : physPopulated s.cfg pa = true) (v : Byte) :
    State.Inv { s with mem := Memory.write s.mem pa v } where
  memory := Memory.write_wf pa v h.memory
  populated := fun c hc => by
    rcases Memory.mem_write hc with rfl | hold
    · exact hpa
    · exact h.populated c hold
  cfgLegal := h.cfgLegal
  a20m := h.a20m
  smx := h.smx
  root := fun hroot => by simpa [State.rootInv_iff] using h.root hroot

/-- A software store that is not refused keeps the invariant. -/
theorem State.Inv.softwareStore {s t : State} (h : s.Inv) {pa : Nat} {v : Byte}
    (hstore : s.softwareStore pa v = .next t) : t.Inv := by
  rcases State.softwareStore_next hstore with ⟨hmemory, rfl⟩ | ⟨-, rfl⟩
  · exact h.write (h.physPopulated_of_hasMemory hmemory) v
  · exact h

/-- Settles O43: both operations keep the invariant, and A20M mode is the pin's level masked by blocked A20M. -/
theorem outsideWorldKeepsTheInvariant : Obligations.OutsideWorldKeepsTheInvariant := by
  intro s h
  refine ⟨fun asserted => ⟨h.driveA20m asserted, fun hblocked => ?_, fun hfree => ?_⟩,
    fun _ _ _ => h.softwareStore⟩
  · simp [hblocked]
  · simp [hfree]

/-! ## Reset (R33) -/

/-- R33, R16: the segment registers after reset. -/
theorem State.reset_segment (r : SegReg) :
    State.reset.segment r = Segment.reset (if r = .cs then 0xFFFF0000#64 else 0#64) := by
  cases r <;> rfl

/-- R82: with CR0.PE clear VMXON is not recognized. -/
theorem execVmxon_of_pe_clear {f : VmxonForm} {s : State} (h : s.cr0.getLsbD 0 = false) :
    execVmxon f s = .fault .ud :=
  execVmxon_of_not_recognized fun hr => Bool.false_ne_true (h.symm.trans hr.protection)

/-- R83: with CR4.VMXE clear VMXON is not recognized. -/
theorem execVmxon_of_vmxe_clear {f : VmxonForm} {s : State} (h : s.cr4.getLsbD 13 = false) :
    execVmxon f s = .fault .ud :=
  execVmxon_of_not_recognized fun hr => Bool.false_ne_true (h.symm.trans hr.vmxe)

/-- R89: with the lock bit clear a recognized VMXON outside VMX operation raises #GP(0). -/
theorem execVmxon_of_lock_clear {f : VmxonForm} {s : State} (hr : Recognized f s) (hoff : s.vmx = .off)
    (h : s.featureControl.getLsbD 0 = false) : execVmxon f s = .fault (.gp 0#32) :=
  execVmxon_off_prohibited hr hoff fun hp => Bool.false_ne_true (h.symm.trans hp.lockBit)

/-- Settles O40: from reset both CR0.PE and CR4.VMXE are missing, and behind them the lock bit. -/
theorem resetValuesAndFirstVmxon : Obligations.ResetValuesAndFirstVmxon := by
  refine ⟨⟨rfl, rfl, rfl, rfl, rfl, rfl, rfl, rfl, rfl, rfl, rfl, rfl, rfl, rfl, rfl⟩, fun r => ?_,
    fun f => ⟨execVmxon_of_pe_clear rfl, execVmxon_of_vmxe_clear rfl, execVmxon_of_pe_clear rfl⟩, fun f hmem => ?_⟩
  · simp [State.reset_segment, Segment.reset]
  · have hrecognized : Recognized f
        { State.reset with cr0 := State.reset.cr0 ||| 1#64, cr4 := State.reset.cr4 ||| 0x2000#64 } :=
      { memoryOperand := hmem, protection := rfl, vmxe := rfl, notVm86 := rfl, notCompat := fun h => by cases h }
    exact execVmxon_of_lock_clear hrecognized rfl rfl

/-- Settles O41: nothing is listed in memory, nothing is blocked, and the chip's configuration is legal by its type. -/
theorem resetMeetsTheInvariant : Obligations.ResetMeetsTheInvariant where
  memory := .nil
  populated := fun _ h => absurd h List.not_mem_nil
  cfgLegal := Config.chip.legal
  a20m := fun _ => rfl
  smx := fun h => by cases h
  root := fun h => by cases h

/-! ## What a data read of one byte gives (R47, R50, R51) -/

theorem State.maskA20_of_not_a20m {s : State} (h : s.a20mMode = false) (pa : Nat) : s.maskA20 pa = pa := by
  simp [State.maskA20, h]

theorem State.owned_iff {s : State} {pa : Nat} :
    s.owned pa = true ↔ s.vmx ≠ .off ∧ s.vmxonPtr.toNat ≤ pa ∧ pa < s.vmxonPtr.toNat + 4096 := by
  simp [State.owned, and_assoc]

theorem physPopulated_iff {c : Config} {pa : Nat} :
    physPopulated c pa = true ↔
      pa < 2 ^ c.physAddrWidth ∧ ∃ r ∈ c.physPopulated, r.base ≤ pa ∧ pa < r.base + r.size := by
  simp [physPopulated]

/-- R50: a byte the processor owns is a draw. -/
theorem State.readByte_owned {s : State} {pa : Nat} (h : s.owned (s.maskA20 pa) = true) (slot : Nat) :
    s.readByte slot pa = Config.freeByte slot :=
  State.readByte_drawn (by simp [State.drawn, h]) slot

/-- Outside the owned region the byte memory holds is the one software finds. -/
theorem State.presentByte_of_not_owned {s : State} {pa : Nat} (h : s.owned (s.maskA20 pa) = false) :
    s.presentByte pa = Memory.read s.mem (s.maskA20 pa) := by
  simp [State.presentByte, h]

/-- R47, R51: a byte nothing was written to is memory's unspecified byte where the platform has memory, and a draw
where it has none. -/
theorem State.readByte_unwritten {s : State} {pa : Nat} (ho : s.owned (s.maskA20 pa) = false)
    (hread : Memory.read s.mem (s.maskA20 pa) = none) (slot : Nat) :
    s.readByte slot pa =
      if physPopulated s.cfg (s.maskA20 pa) then Config.initialByte (s.maskA20 pa) else Config.freeByte slot := by
  have hdrawn : s.drawn pa = !physPopulated s.cfg (s.maskA20 pa) := by simp [State.drawn, State.hasMemory, ho, hread]
  cases hp : physPopulated s.cfg (s.maskA20 pa) <;>
    simp [State.readByte, hdrawn, hp, State.presentByte_of_not_owned ho, hread]

/-- Settles O49: the address is owned, or holds a byte, or is populated, or none of these. -/
theorem byteReadsByWhatIsAtTheAddress : Obligations.ByteReadsByWhatIsAtTheAddress := by
  intro s pa slot ha20m
  have hmask : s.maskA20 pa = pa := State.maskA20_of_not_a20m ha20m pa
  refine ⟨fun hon hlow hhigh => ?_, fun houtside => ?_⟩
  · exact State.readByte_owned (by rw [hmask]; exact State.owned_iff.2 ⟨hon, hlow, hhigh⟩) slot
  · have howned : s.owned (s.maskA20 pa) = false := by
      rw [hmask, Bool.eq_false_iff, ne_eq, State.owned_iff]
      exact houtside
    refine ⟨fun b hheld => ?_, fun hnone => ?_⟩
    · exact State.readByte_present (by rw [State.presentByte_of_not_owned howned, hmask]; exact hheld) slot
    · have hread := State.readByte_unwritten howned (by rw [hmask]; exact hnone) slot
      rw [hmask] at hread
      rw [← physPopulated_iff]
      exact ⟨fun hpopulated => by simp [hread, hpopulated], fun habsent => by simp [hread, habsent]⟩

end Sys2Proof.Machine

/-! PROOFS. The memory statements (spec/20_memory.md): the segment test, translation, what a read of bytes gives, and
what entry and software stores change of memory. -/

namespace Sys2Proof.Machine

/-! ## The segment test (R44, R45) -/

theorem segmentFault_eq_ss {r : SegReg} : segmentFault r = .ss 0#32 ↔ r = .ss := by
  cases r <;> simp [segmentFault]

theorem segmentFault_eq_gp {r : SegReg} : segmentFault r = .gp 0#32 ↔ r ≠ .ss := by
  cases r <;> simp [segmentFault]

/-- The segment test finds a fault, which is that of the segment, or none. -/
theorem State.segCheck_none_or_segmentFault (s : State) (r : SegReg) (ea : Word64) (n : Nat) :
    s.segCheck r ea n = none ∨ s.segCheck r ea n = some (segmentFault r) := by
  cases h : s.segCheck r ea n with
  | none => exact .inl rfl
  | some e => exact .inr (by rw [State.segCheck_some h])

/-- R44: what is wrong with an operand in a segment outside 64-bit mode. -/
theorem State.segmentBad_iff {s : State} {r : SegReg} {ea : Word64} {n : Nat} :
    s.segmentBad r ea n = true ↔
      (∃ k < n, s.insideLimit r (ea.toNat + k) = false) ∨ (r ≠ .cs ∧ (s.segment r).unusable = true) ∨
        (r ≠ .ss ∧ (s.segment r).execOnly = true) := by
  simp only [State.segmentBad, Bool.or_eq_true, Bool.and_eq_true, Bool.not_eq_true', beq_eq_false_iff_ne,
    State.inLimit_false, or_assoc]

/-- Outside 64-bit mode the segment test answers `e` exactly where the operand is bad and `e` is the segment's fault. -/
theorem State.segCheck_eq_some_of_not_is64 {s : State} (hmode : s.is64 = false) {r : SegReg} {ea : Word64} {n : Nat}
    {e : Fault} : s.segCheck r ea n = some e ↔ segmentFault r = e ∧ s.segmentBad r ea n = true := by
  cases hbad : s.segmentBad r ea n <;> simp [State.segCheck, hmode, hbad]

/-- Settles O35: the answer is the segment's fault exactly where `State.segmentBad_iff` finds a cause; through SS the
segment is not asked to be readable, through any other it is not SS. -/
theorem segmentTestOutside64BitMode : Obligations.SegmentTestOutside64BitMode := by
  intro s r ea n hmode _
  refine ⟨?_, ?_, ?_, fun hlast offset => ?_⟩
  · rw [State.segCheck_eq_some_of_not_is64 hmode, segmentFault_eq_ss, State.segmentBad_iff]
    exact and_congr_right fun hss => by simp [hss]
  · rw [State.segCheck_eq_some_of_not_is64 hmode, segmentFault_eq_gp, State.segmentBad_iff]
    exact and_congr_right fun hss => by simp [hss]
  · rcases s.segCheck_none_or_segmentFault r ea n with hnone | hfault
    · exact .inl hnone
    · cases r <;> simp [hfault, segmentFault]
  · simp [State.insideLimit_lastOffset hlast]

/-- A value is the sign extension of its low `w` bits where the bits from `w - 1` up are all equal. -/
theorem eq_signExtend_setWidth_iff {v : Word64} {w : Nat} (hpos : 0 < w) (hle : w ≤ 64) :
    v = (v.setWidth w).signExtend 64 ↔ ∀ j < 64, w - 1 ≤ j → v.getLsbD j = v.getLsbD 63 := by
  have hbit : ∀ j < 64, ((v.setWidth w).signExtend 64).getLsbD j = v.getLsbD (min j (w - 1)) := by
    intro j hj
    rw [BitVec.getLsbD_signExtend, BitVec.msb_eq_getLsbD_last]
    by_cases hjw : j < w
    · simp [hj, hjw, show min j (w - 1) = j by omega]
    · simp [hj, hjw, show min j (w - 1) = w - 1 by omega, hpos]
  constructor
  · intro h j hj hwj
    rw [h, hbit j hj, hbit 63 (by omega), show min j (w - 1) = min 63 (w - 1) by omega]
  · intro h
    refine BitVec.eq_of_getLsbD_eq fun j hj => ?_
    rw [hbit j hj]
    by_cases hjw : j < w
    · rw [show min j (w - 1) = j by omega]
    · rw [show min j (w - 1) = w - 1 by omega, h j hj (by omega), h (w - 1) (by omega) le_rfl]

/-- R45: an address is canonical where its bits 63 down to `LINEAR_ADDR_WIDTH - 1` are all equal. -/
theorem canonical_iff {w : LinearWidth} {la : Word64} :
    canonical w la = true ↔ ∀ j < 64, linearBits w - 1 ≤ j → la.getLsbD j = la.getLsbD 63 := by
  rw [canonical, beq_iff_eq]
  exact eq_signExtend_setWidth_iff (by cases w <;> decide) (by cases w <;> decide)

/-- R43 (2): only FS and GS add their base in 64-bit mode. -/
theorem State.base64_eq (s : State) (r : SegReg) :
    s.base64 r = if r = .fs then s.seg.fs.base else if r = .gs then s.seg.gs.base else 0#64 := by
  cases r <;> rfl

/-- R45: in 64-bit mode the segment test passes exactly where the linear address of every byte is canonical. -/
theorem State.segCheck_eq_none_of_is64 {s : State} (hmode : s.is64 = true) {r : SegReg} {ea : Word64} {n : Nat} :
    s.segCheck r ea n = none ↔
      ∀ k < n, canonical s.cfg.linearAddrWidth (s.base64 r + (ea + BitVec.ofNat 64 k)) = true := by
  simp [State.segCheck, hmode, State.linearBytes, State.linearAddr]

/-- Settles O36: the bytes' linear addresses are `base + ea + k`, and `canonical_iff` says what is asked of each. -/
theorem canonicalTestIn64BitMode : Obligations.CanonicalTestIn64BitMode := by
  intro s r ea n hmode width base good
  have hgood : ∀ la, canonical s.cfg.linearAddrWidth la = true ↔ good la := by
    have hwidth : linearBits s.cfg.linearAddrWidth = width := by
      simp only [width]
      cases s.cfg.linearAddrWidth <;> rfl
    intro la
    rw [canonical_iff, hwidth]
  refine ⟨?_, fun hfault => ?_⟩
  · rw [State.segCheck_eq_none_of_is64 hmode]
    simp only [hgood, ← BitVec.add_assoc, State.base64_eq, base]
  · rw [(s.segCheck_none_or_segmentFault r ea n).resolve_left hfault]
    cases r <;> rfl

/-! ## Translation (R46) -/

/-- The place of an address in its frame is below the end of the frame. -/
theorem frame_lt {n width : Nat} (h : (n + 1) * 4096 ≤ 2 ^ width) (a : Nat) : n * 4096 + a % 4096 < 2 ^ width := by
  omega

/-- A table whose frames lie below the width translates to addresses below it. -/
theorem tableTranslate_lt {t : PageTable} {width : Nat} (h : (Translation.pages t).inWidth width = true) {la : Word64}
    {a : Access} {pa : Nat} (hpa : tableTranslate t width la a = .ok pa) : pa < 2 ^ width := by
  unfold tableTranslate at hpa
  split at hpa
  · rename_i n hfind
    cases hpa
    obtain ⟨e, he, hframe⟩ := Option.map_eq_some_iff.1 hfind
    have hin := List.all_eq_true.1 h e (List.mem_of_find?_eq_some he)
    rw [hframe] at hin
    exact frame_lt (of_decide_eq_true hin) _
  · cases hpa
  · split at hpa <;> cases hpa
    rename_i hidentity
    exact of_decide_eq_true (Bool.and_eq_true_iff.1 hidentity).2

/-- R46: with paging on and a legal configuration a translation lies below the physical-address width. -/
theorem State.translatePaged_lt {s : State} (h : s.cfg.legal = true) {la : Word64} {a : Access} {pa : Nat}
    (hpa : s.translatePaged la a = .ok pa) : pa < 2 ^ s.cfg.physAddrWidth := by
  have hwidth := (Bool.and_eq_true_iff.1 h).2
  unfold State.translatePaged at hpa
  split at hpa
  · rename_i t htable
    rw [htable] at hwidth
    exact tableTranslate_lt hwidth hpa
  · split at hpa <;> cases hpa
    exact Nat.mod_lt _ (Nat.two_pow_pos _)

theorem State.translate_of_paging_on {s : State} (h : s.cr0.getLsbD 31 = true) (la : Word64) (a : Access) :
    s.translate la a = (s.translatePaged la a).mapError (fun c => ⟨c, la⟩) := by
  unfold State.translate
  rw [h]
  cases s.translatePaged la a <;> rfl

/-- Settles O38: the answer with paging on is that of `State.translatePaged`, at the address asked about. -/
theorem translationIsTheIdentityWithoutPagingAndBelowTheWidthWithIt :
    Obligations.TranslationIsTheIdentityWithoutPagingAndBelowTheWidthWithIt := by
  intro s la a
  refine ⟨fun hoff => State.translate_of_paging_off hoff la a, fun hon hlegal => ?_⟩
  rw [State.translate_of_paging_on hon]
  cases hpaged : s.translatePaged la a with
  | ok pa => exact .inl ⟨pa, rfl, State.translatePaged_lt hlegal hpaged⟩
  | error c => exact .inr ⟨c, rfl⟩

/-! ## Little-endian reads (R41) -/

/-- The number of bytes put together, the lowest byte last. -/
theorem toNat_append_byte {n : Nat} (high : BitVec n) (low : Byte) :
    (high ++ low).toNat = low.toNat + 256 * high.toNat := by
  rw [BitVec.toNat_append, ← Nat.shiftLeft_add_eq_or_of_lt low.isLt, Nat.shiftLeft_eq]
  omega

/-- Where memory holds every byte, the bytes read are those. -/
theorem State.readBytes_present {s : State} {pas : List Nat} {bs : List Byte}
    (h : List.Forall₂ (fun pa b => s.presentByte pa = some b) pas bs) (slot : Nat) : s.readBytes slot pas = bs := by
  induction h generalizing slot with
  | nil => rfl
  | cons hb _ ih => simp only [State.readBytes, State.readByte_present hb, ih]

theorem leNat_ofFn_eight (b : Fin 8 → Byte) :
    leNat (List.ofFn b) = (b 7 ++ b 6 ++ b 5 ++ b 4 ++ b 3 ++ b 2 ++ b 1 ++ b 0 : BitVec 64).toNat := by
  simp [leNat, List.ofFn_succ, toNat_append_byte]

theorem leNat_four (b0 b1 b2 b3 : Byte) : leNat [b0, b1, b2, b3] = (b3 ++ b2 ++ b1 ++ b0 : BitVec 32).toNat := by
  simp [leNat, toNat_append_byte]

/-- Two lists given entry by entry are related where their entries are. -/
theorem forall₂_ofFn {α β : Type} {R : α → β → Prop} {n : Nat} {f : Fin n → α} {g : Fin n → β}
    (h : ∀ k, R (f k) (g k)) : List.Forall₂ R (List.ofFn f) (List.ofFn g) := by
  rw [List.forall₂_iff_get]
  exact ⟨by simp, fun i _ _ => by simpa using h _⟩

/-- The linear addresses of an operand's bytes, by their number. -/
theorem State.linearBytes_eq_ofFn (s : State) (r : SegReg) (ea : Word64) (n : Nat) :
    s.linearBytes r ea n = List.ofFn fun k : Fin n => s.linearAddr r (ea + BitVec.ofNat 64 k) := by
  rw [State.linearBytes, List.ofFn_eq_map, ← List.map_coe_finRange_eq_range, List.map_map]
  rfl

/-- Settles O37: both reads give the number of the bytes held, the first lowest. -/
theorem memoryReadsAreLittleEndian : Obligations.MemoryReadsAreLittleEndian := by
  refine ⟨fun s r ea pa b hseg htranslate hbytes => ?_, fun s addr b0 b1 b2 b3 h0 h1 h2 h3 => ?_⟩
  · have hall : s.translateAll .read (s.linearBytes r ea 8) = .ok (List.ofFn pa) := by
      rw [State.translateAll_ok, State.linearBytes_eq_ofFn]
      exact forall₂_ofFn htranslate
    refine State.memRead_ok.2 ⟨hseg, _, hall, ?_⟩
    rw [State.readBytes_present (forall₂_ofFn hbytes), leNat_ofFn_eight]
  · have hread : s.readBytes s.draws [addr, addr + 1, addr + 2, addr + 3] = [b0, b1, b2, b3] :=
      State.readBytes_present (.cons h0 (.cons h1 (.cons h2 (.cons h3 .nil)))) _
    calc s.physRead addr 4 = leNat (s.readBytes s.draws [addr, addr + 1, addr + 2, addr + 3]) := rfl
      _ = (b3 ++ b2 ++ b1 ++ b0 : BitVec 32).toNat := by rw [hread, leNat_four]

/-! ## What software finds in memory before and after a completion (R50, R102, R116) -/

/-- Outside VMX operation the processor owns no memory. -/
theorem State.owned_of_off {s : State} (h : s.vmx = .off) (pa : Nat) : s.owned pa = false := by
  simp [State.owned, h]

theorem State.owned_eq_false_iff {s : State} {pa : Nat} :
    s.owned pa = false ↔ ¬(s.vmx ≠ .off ∧ s.vmxonPtr.toNat ≤ pa ∧ pa < s.vmxonPtr.toNat + 4096) := by
  rw [Bool.eq_false_iff, ne_eq, State.owned_iff]

/-- Two states find the same byte, and read the same one, at an address that they mask alike, own alike and hold the
same content at. -/
theorem State.sameByte {s t : State} {pa : Nat} (hcfg : t.cfg = s.cfg) (ha20m : t.a20mMode = s.a20mMode)
    (howned : t.owned (s.maskA20 pa) = s.owned (s.maskA20 pa))
    (hread : Memory.read t.mem (s.maskA20 pa) = Memory.read s.mem (s.maskA20 pa)) :
    t.presentByte pa = s.presentByte pa ∧ ∀ slot, t.readByte slot pa = s.readByte slot pa := by
  have hmask : t.maskA20 pa = s.maskA20 pa := by simp only [State.maskA20, ha20m]
  have hpresent : t.presentByte pa = s.presentByte pa := by simp only [State.presentByte, hmask, howned, hread]
  have hdrawn : t.drawn pa = s.drawn pa := by simp only [State.drawn, State.hasMemory, hmask, howned, hread, hcfg]
  exact ⟨hpresent, fun slot => by simp only [State.readByte, hdrawn, hpresent, hmask]⟩

/-- A completion either enters VMX operation, outside A20M mode, or leaves alone everything a read of memory asks. -/
theorem execVmxon_next_memory {f : VmxonForm} {s t : State} (h : execVmxon f s = .next t) :
    t.mem = s.mem ∧ t.cfg = s.cfg ∧ t.a20mMode = s.a20mMode ∧
      ((s.vmx = .off ∧ t.vmx = .root ∧ s.a20mMode = false) ∨
        (¬(s.vmx = .off ∧ t.vmx = .root) ∧ t.vmx = s.vmx ∧ t.vmxonPtr = s.vmxonPtr)) := by
  obtain ⟨-, ⟨hoff, hpermitted, v, -, ⟨-, rfl⟩ | ⟨-, -, rfl⟩ | ⟨-, -, rfl⟩⟩ | ⟨hroot, -, rfl⟩⟩ := execVmxon_next h
  · simp [afterBadPointer, hoff]
  · simp [afterBadRevision, hoff]
  · simp [afterEntry, hoff, hpermitted.notA20m]
  · rcases s.vmFail_cases vmxonInRootError f.length with ⟨-, e⟩ | ⟨-, e⟩ <;> simp [e, hroot]

/-- Settles O25: entry changes the owner of the 4096 bytes at the pointer only, any other completion changes nothing
that a read asks. -/
theorem memoryReadsAsBeforeOutsideTheOwnedRegion : Obligations.MemoryReadsAsBeforeOutsideTheOwnedRegion := by
  intro f s t h pa
  obtain ⟨hmem, hcfg, ha20m, ⟨hoff, hroot, hnotA20m⟩ | ⟨hnoEntry, hvmx, hptr⟩⟩ := execVmxon_next_memory h
  · refine ⟨fun _ => ⟨fun ⟨hlow, hhigh⟩ => ?_, fun houtside => ?_⟩, fun hno => absurd ⟨hoff, hroot⟩ hno⟩
    · have howned : t.owned (t.maskA20 pa) = true := by
        rw [State.maskA20_of_not_a20m (ha20m.trans hnotA20m)]
        exact State.owned_iff.2 ⟨by simp [hroot], hlow, hhigh⟩
      exact ⟨by simp [State.presentByte, howned], State.readByte_owned howned⟩
    · refine State.sameByte hcfg ha20m ?_ (by rw [hmem])
      rw [State.maskA20_of_not_a20m hnotA20m, State.owned_of_off hoff, State.owned_eq_false_iff]
      exact fun ⟨_, hinside⟩ => houtside hinside
  · refine ⟨fun hentry => absurd hentry hnoEntry, fun _ => State.sameByte hcfg ha20m ?_ (by rw [hmem])⟩
    simp only [State.owned, hvmx, hptr]

/-! ## Software stores (R50, log 31) -/

section SoftwareStore

variable {s : State} {pa : Nat} (v : Byte)

/-- R50: a store to the region the processor owns is refused. -/
theorem State.softwareStore_owned (howned : s.owned (s.maskA20 pa) = true) :
    s.softwareStore pa v = .refused .storeToVmxonRegion := by
  simp [State.softwareStore, howned]

/-- Log 31: a store beyond the physical-address width is refused. -/
theorem State.softwareStore_beyond (howned : s.owned (s.maskA20 pa) = false)
    (hwidth : 2 ^ s.cfg.physAddrWidth ≤ s.maskA20 pa) :
    s.softwareStore pa v = .refused .storeBeyondPhysicalWidth := by
  simp [State.softwareStore, howned, hwidth]

/-- A store is made where there is memory. -/
theorem State.softwareStore_memory (howned : s.owned (s.maskA20 pa) = false)
    (hwidth : s.maskA20 pa < 2 ^ s.cfg.physAddrWidth) (hmemory : s.hasMemory (s.maskA20 pa) = true) :
    s.softwareStore pa v = .next { s with mem := Memory.write s.mem (s.maskA20 pa) v } := by
  simp [State.softwareStore, howned, hwidth, hmemory]

/-- Log 31: a store below the physical-address width where there is no memory changes nothing. -/
theorem State.softwareStore_absent (howned : s.owned (s.maskA20 pa) = false)
    (hwidth : s.maskA20 pa < 2 ^ s.cfg.physAddrWidth) (hmemory : s.hasMemory (s.maskA20 pa) = false) :
    s.softwareStore pa v = .next s := by
  simp [State.softwareStore, howned, hwidth, hmemory]

/-- The byte stored outside the owned region is the one software then finds. -/
theorem State.presentByte_write_same (howned : s.owned (s.maskA20 pa) = false) :
    State.presentByte { s with mem := Memory.write s.mem (s.maskA20 pa) v } pa = some v :=
  (State.presentByte_of_not_owned (s := { s with mem := Memory.write s.mem (s.maskA20 pa) v }) howned).trans
    (Memory.read_write_same _ _ _)

/-- A byte stored leaves every byte at another place as it was. -/
theorem State.sameByte_write_other {q : Nat} (hq : s.maskA20 q ≠ s.maskA20 pa) :
    State.presentByte { s with mem := Memory.write s.mem (s.maskA20 pa) v } q = s.presentByte q ∧
      ∀ slot, State.readByte { s with mem := Memory.write s.mem (s.maskA20 pa) v } slot q = s.readByte slot q :=
  State.sameByte rfl rfl rfl (Memory.read_write_other _ _ hq)

end SoftwareStore

/-- Settles O44: entry makes the 4096 bytes at the pointer the processor's, outside A20M mode; a store elsewhere writes
the one byte. -/
theorem ownedRegionRefusesSoftwareStores : Obligations.OwnedRegionRefusesSoftwareStores := by
  intro f s t hoff h hroot pa v
  obtain ⟨-, -, ha20m, ⟨-, -, hnotA20m⟩ | ⟨hnoEntry, -⟩⟩ := execVmxon_next_memory h
  · have hmask : ∀ q, t.maskA20 q = q := State.maskA20_of_not_a20m (ha20m.trans hnotA20m)
    refine ⟨fun ⟨hlow, hhigh⟩ => ?_, fun houtside hpopulated => ?_⟩
    · refine State.softwareStore_owned v ?_
      rw [hmask]
      exact State.owned_iff.2 ⟨by simp [hroot], hlow, hhigh⟩
    · have howned : t.owned (t.maskA20 pa) = false := by
        rw [hmask, State.owned_eq_false_iff]
        exact fun ⟨_, hinside⟩ => houtside hinside
      have hwidth : t.maskA20 pa < 2 ^ t.cfg.physAddrWidth := by
        rw [hmask]
        exact (physPopulated_iff.1 hpopulated).1
      have hmemory : t.hasMemory (t.maskA20 pa) = true := by simp [State.hasMemory, hmask, hpopulated]
      exact ⟨_, State.softwareStore_memory v howned hwidth hmemory, State.presentByte_write_same v howned,
        fun q hq => State.sameByte_write_other v (by rwa [hmask, hmask])⟩
  · exact absurd ⟨hoff, hroot⟩ hnoEntry

/-- Settles O50: the two cases of a store outside the owned region that writes nothing. -/
theorem storesWhereThereIsNoMemory : Obligations.StoresWhereThereIsNoMemory := by
  intro s pa v ha20m houtside
  have hmask : s.maskA20 pa = pa := State.maskA20_of_not_a20m ha20m pa
  have howned : s.owned (s.maskA20 pa) = false := by
    rw [hmask, State.owned_eq_false_iff]
    exact houtside
  refine ⟨fun hbeyond => State.softwareStore_beyond v howned (by rwa [hmask]), fun hwidth hnone habsent => ?_⟩
  refine State.softwareStore_absent v howned (by rwa [hmask]) ?_
  rw [hmask, State.hasMemory, hnone, habsent]
  rfl

/-! ## In VMX operation the operand is not read (R42) -/

/-- The state with other values in everything the operand's address and bytes come from. -/
def State.withOperandInputs (s : State) (regs : Vector Word64 16) (seg : SegmentFile) (mem : Memory) (cfg : Config)
    (draws : Nat) : State :=
  { s with regs := regs, seg := seg, mem := mem, cfg := cfg, draws := draws }

section OperandInputs

variable {s : State} (regs : Vector Word64 16) (seg : SegmentFile) (mem : Memory) (cfg : Config) (draws : Nat)

theorem recognized_withOperandInputs {f : VmxonForm} :
    Recognized f (s.withOperandInputs regs seg mem cfg draws) ↔ Recognized f s := by
  rw [← invalidOpcode_false, ← invalidOpcode_false]
  rfl

theorem State.vmFail_withOperandInputs (error : BitVec 32) (len : Nat) :
    (s.withOperandInputs regs seg mem cfg draws).vmFail error len =
      (s.vmFail error len).withOperandInputs regs seg mem cfg draws := by
  rcases s.vmFail_cases error len with ⟨hnone, e⟩ | ⟨hsome, e⟩
  · rw [e]
    exact if_pos hnone
  · rw [e]
    exact if_neg hsome

/-- A stop in VMX operation does not depend on the operand. -/
theorem execVmxon_fault_withOperandInputs {f : VmxonForm} {e : Fault} (hon : s.vmx ≠ .off)
    (h : execVmxon f s = .fault e) : execVmxon f (s.withOperandInputs regs seg mem cfg draws) = .fault e := by
  have hrecognized := recognized_withOperandInputs (s := s) regs seg mem cfg draws (f := f)
  obtain ⟨rfl, hnot⟩ | ⟨hr, ⟨rfl, hnonRoot⟩ | ⟨rfl, hroot, hcpl⟩ | ⟨-, hoff, -⟩ | ⟨hoff, -⟩⟩ := execVmxon_fault h
  · exact execVmxon_of_not_recognized (mt hrecognized.1 hnot)
  · exact execVmxon_nonRoot (hrecognized.2 hr) hnonRoot
  · rw [execVmxon_root (hrecognized.2 hr) hroot]
    exact if_pos (not_not.1 (mt cpl_not_pos.1 hcpl))
  · exact absurd hoff hon
  · exact absurd hoff hon

/-- A completion in VMX operation does not depend on the operand, and passes its inputs through. -/
theorem execVmxon_next_withOperandInputs {f : VmxonForm} {t : State} (hon : s.vmx ≠ .off)
    (h : execVmxon f s = .next t) :
    execVmxon f (s.withOperandInputs regs seg mem cfg draws) =
      .next (t.withOperandInputs regs seg mem cfg draws) := by
  obtain ⟨hr, ⟨hoff, -⟩ | ⟨hroot, hcpl, rfl⟩⟩ := execVmxon_next h
  · exact absurd hoff hon
  · rw [execVmxon_root ((recognized_withOperandInputs regs seg mem cfg draws).2 hr) hroot,
      State.vmFail_withOperandInputs]
    exact if_neg (cpl_not_pos.2 hcpl)

end OperandInputs

/-- Settles O27: `State.withOperandInputs` is the update the statement writes out. -/
theorem operandIsNotReadInVmxOperation : Obligations.OperandIsNotReadInVmxOperation :=
  fun _ _ regs seg mem cfg draws hon =>
    ⟨fun _ => execVmxon_fault_withOperandInputs regs seg mem cfg draws hon,
      fun _ => execVmxon_next_withOperandInputs regs seg mem cfg draws hon⟩

/-! ## What entry reads and draws (R92 to R95, log 8) -/

/-- R94, log 8: the draw numbers of the revision word are the four after those of the operand. -/
theorem revisionAt_eq_leNat (s : State) (addr : Nat) :
    revisionAt s addr = leNat (s.readBytes (s.draws + 8) ((List.range 4).map fun k => addr + k)) := by
  rw [revisionAt, State.physRead, State.readBytes_congr (State.drew_readByte s 8), State.drew_draws]

/-- Eight bytes are a 64-bit pointer. -/
theorem pointerAt_lt (s : State) {pas : List Nat} (h : pas.length = 8) : pointerAt s pas < 2 ^ 64 := by
  simpa [pointerAt, h] using leNat_lt (s.readBytes s.draws pas)

/-- What `tryEntry` answers where the operand is read: its tests are of the pointer and of the revision word. -/
theorem tryEntry_of_operandAt {f : VmxonForm} {s : State} {pas : List Nat} (h : OperandAt f s pas) :
    tryEntry f s =
      if pointerRejected s.cfg (BitVec.ofNat 64 (pointerAt s pas)) then .next (afterBadPointer f s)
      else if revisionRejected s.cfg (BitVec.ofNat 32 (revisionAt s (pointerAt s pas))) then
        .next (afterBadRevision f s)
      else .next (afterEntry f s (BitVec.ofNat 64 (pointerAt s pas))) := by
  have hread : s.memRead (operandSegment f) (s.effectiveAddress f) 8 = .ok (pointerAt s pas) :=
    State.memRead_ok.2 ⟨h.segment, pas, h.translateAll, rfl⟩
  have haddr : (BitVec.ofNat 64 (pointerAt s pas)).toNat = pointerAt s pas :=
    Nat.mod_eq_of_lt (pointerAt_lt s h.count)
  rw [tryEntry_ok hread, haddr]
  rfl

theorem afterBadPointer_draws (f : VmxonForm) (s : State) : (afterBadPointer f s).draws = s.draws + 8 := rfl

theorem afterBadRevision_draws (f : VmxonForm) (s : State) : (afterBadRevision f s).draws = s.draws + 12 := rfl

theorem afterEntry_draws (f : VmxonForm) (s : State) (addr : Word64) :
    (afterEntry f s addr).draws = s.draws + 12 := rfl

/-! ## Where no byte read is a draw, the free bytes play no part (R47) -/

/-- The state from which the draws go on at another number. -/
def State.withDraws (s : State) (d : Nat) : State := { s with draws := d }

section Draws

variable {s : State} (d : Nat)

theorem recognized_withDraws {f : VmxonForm} : Recognized f (s.withDraws d) ↔ Recognized f s := by
  rw [← invalidOpcode_false, ← invalidOpcode_false]
  rfl

theorem permitted_withDraws : Permitted (s.withDraws d) ↔ Permitted s := by
  rw [← entryProhibited_false, ← entryProhibited_false]
  rfl

theorem operandAt_withDraws {f : VmxonForm} {pas : List Nat} :
    OperandAt f (s.withDraws d) pas ↔ OperandAt f s pas :=
  ⟨fun ⟨hseg, hcount, htranslate⟩ => ⟨hseg, hcount, htranslate⟩,
    fun ⟨hseg, hcount, htranslate⟩ => ⟨hseg, hcount, htranslate⟩⟩

@[simp] theorem State.withDraws_cfg : (s.withDraws d).cfg = s.cfg := rfl

theorem State.readBytes_withDraws (slot : Nat) (pas : List Nat) :
    (s.withDraws d).readBytes slot pas = s.readBytes slot pas :=
  State.readBytes_congr (s := s.withDraws d) (t := s) (fun _ _ => rfl) pas slot

/-- A pointer none of whose bytes is a draw is the same from every draw number. -/
theorem pointerAt_withDraws {pas : List Nat} (h : ∀ pa ∈ pas, s.drawn pa = false) :
    pointerAt (s.withDraws d) pas = pointerAt s pas := by
  rw [pointerAt, State.readBytes_withDraws, State.readBytes_known h _ s.draws, pointerAt]

/-- A revision word none of whose bytes is a draw is the same from every draw number. -/
theorem revisionAt_withDraws {addr : Nat} (h : ∀ k < 4, s.drawn (addr + k) = false) :
    revisionAt (s.withDraws d) addr = revisionAt s addr := by
  have hknown : ∀ pa ∈ (List.range 4).map (fun k => addr + k), s.drawn pa = false := by simpa using h
  rw [revisionAt_eq_leNat, State.readBytes_withDraws, State.readBytes_known hknown _ (s.draws + 8),
    revisionAt_eq_leNat]

/-- The three next states move the draw number on by what they read, wherever it was. -/
theorem tryEntry_withDraws {f : VmxonForm} {t : State} {pas : List Nat} (hoperand : OperandAt f s pas)
    (hpointer : ∀ pa ∈ pas, s.drawn pa = false) (hrevision : ∀ k < 4, s.drawn (pointerAt s pas + k) = false)
    (h : tryEntry f s = .next t) :
    tryEntry f (s.withDraws d) = .next (t.withDraws (d + (t.draws - s.draws))) := by
  have hcancel : ∀ n, d + (s.draws + n - s.draws) = d + n := fun n => by omega
  rw [tryEntry_of_operandAt hoperand] at h
  rw [tryEntry_of_operandAt ((operandAt_withDraws d).2 hoperand), pointerAt_withDraws d hpointer,
    revisionAt_withDraws d hrevision, State.withDraws_cfg]
  split_ifs at h ⊢
  · cases h
    rw [afterBadPointer_draws, hcancel]
    rfl
  · cases h
    rw [afterBadRevision_draws, hcancel]
    rfl
  · cases h
    rw [afterEntry_draws, hcancel]
    rfl

end Draws

/-- Settles O45: only `tryEntry` draws, and what it reads is the same from every draw number. -/
theorem freeBytesMatterOnlyWhereAByteIsAbsent : Obligations.FreeBytesMatterOnlyWhereAByteIsAbsent := by
  intro f s t pas d hoff hoperand hpointer hrevision h
  rw [exec_vmxon] at h
  obtain ⟨hrecognized, ⟨-, hpermitted, -⟩ | ⟨hroot, -⟩⟩ := execVmxon_next h
  · rw [execVmxon_off hrecognized hoff hpermitted] at h
    calc execVmxon f (s.withDraws d)
        = tryEntry f (s.withDraws d) :=
          execVmxon_off ((recognized_withDraws d).2 hrecognized) hoff ((permitted_withDraws d).2 hpermitted)
      _ = .next (t.withDraws (d + (t.draws - s.draws))) := tryEntry_withDraws d hoperand hpointer hrevision h
  · rw [hoff] at hroot
    cases hroot

end Sys2Proof.Machine

/-! PROOFS. The encoding statements (spec/30_encoding.md R60 to R67, R72, R75): decoder and encoder undo each other, what is
refused, the length, and the step over the fetched bytes. -/

namespace Sys2Proof

/-! ## Well-formedness -/

theorem prefixesWf_iff {ps : List LegacyPrefix} :
    prefixesWf ps = true ↔
      ps.count .mandatory = 1 ∧ ps.countP LegacyPrefix.isSegment ≤ 1 ∧ ps.count .addressSize ≤ 1 := by
  simp [prefixesWf, and_assoc]

theorem rexWf_iff {mode : CodeMode} {rex : Option Rex} :
    rexWf mode rex = true ↔ (rex.isSome = true → mode = .m64) := by
  cases rex <;> simp [rexWf]

theorem VmxonForm.wf_iff {f : VmxonForm} :
    f.wf = true ↔ prefixesWf f.prefixes = true ∧ rexWf f.mode f.rex = true ∧ f.operand.wf f.addrSize = true := by
  simp [VmxonForm.wf, and_assoc]

/-- The admitted prefixes are `F3`, the segment overrides and `67`. -/
theorem length_eq_prefixCounts (ps : List LegacyPrefix) :
    ps.length = ps.count .mandatory + ps.countP LegacyPrefix.isSegment + ps.count .addressSize := by
  induction ps with
  | nil => rfl
  | cons p ps ih => cases p <;> simp [LegacyPrefix.isSegment, List.countP_cons, ih] <;> omega

/-! ## The bytes between the prefixes and the opcode -/

/-- A byte `40` to `4F` is none of the legacy prefixes, admitted or refused. -/
theorem rexByte_ends_prefixes {b : Byte} (h : b.extractLsb' 4 4 = 4#4) :
    refusedPrefix b = false ∧ legacyPrefix? b = none := by
  revert b; decide

theorem Rex.toByte_high (r : Rex) : r.toByte.extractLsb' 4 4 = 4#4 := by
  obtain ⟨w, r, x, b⟩ := r
  revert w r x b; decide

theorem rexByte_eq_toByte {b : Byte} (h : b.extractLsb' 4 4 = 4#4) : ∃ r : Rex, b = r.toByte :=
  ⟨_, rex?_some (if_pos h)⟩

/-- The prefixes end at the REX byte or, without one, at the opcode. -/
theorem takePrefixes_toBytes (ps : List LegacyPrefix) (rex : Option Rex) (bs : List Byte) :
    takePrefixes (ps.map LegacyPrefix.toByte ++ (rex.toList.map Rex.toByte ++ 0x0F#8 :: bs)) =
      .ok (ps, rex.toList.map Rex.toByte ++ 0x0F#8 :: bs) := by
  cases rex with
  | none => exact takePrefixes_map ps bs (by decide) (by decide)
  | some r =>
    obtain ⟨hrefused, hlegacy⟩ := rexByte_ends_prefixes r.toByte_high
    exact takePrefixes_map ps (0x0F#8 :: bs) hrefused hlegacy

/-- A REX byte is read back where the mode has one. -/
theorem takeRex_toBytes {mode : CodeMode} {rex : Option Rex} (h : rexWf mode rex = true) (bs : List Byte) :
    takeRex mode (rex.toList.map Rex.toByte ++ 0x0F#8 :: bs) = (rex, 0x0F#8 :: bs) := by
  cases rex with
  | none => exact takeRex_none mode bs
  | some r =>
    rw [rexWf_iff.1 h rfl]
    exact takeRex_some r (0x0F#8 :: bs)

/-! ## Decoder and encoder -/

/-- The decoder answers exactly where each of its parts does. -/
theorem decode_ok_parts {mode : CodeMode} {bs rest : List Byte} {i : Instr} :
    decode mode bs = .ok (i, rest) ↔
      ∃ ps bs1 op, takePrefixes bs = .ok (ps, bs1) ∧ prefixesWf ps = true ∧
        takeOpcode (addrSizeOf mode (ps.contains .addressSize)) (takeRex mode bs1).2 = .ok (op, rest) ∧
        i = .vmxon ⟨mode, ps, (takeRex mode bs1).1, op⟩ := by
  constructor
  · intro h
    unfold decode at h
    split at h
    · cases h
    · rename_i ps bs1 hprefixes
      split at h
      · cases h
      · rename_i hcheck
        split at h
        · cases h
        · rename_i op rest' hopcode
          cases h
          exact ⟨ps, bs1, op, hprefixes, checkPrefixes_ok.1 hcheck, hopcode, rfl⟩
  · rintro ⟨ps, bs1, op, hprefixes, hwf, hopcode, rfl⟩
    simp only [decode, hprefixes, checkPrefixes_ok.2 hwf, hopcode]

/-- A well-formed instruction is read back from its bytes. -/
theorem decode_encode {i : Instr} (h : i.wf = true) (rest : List Byte) :
    decode i.mode (encode i ++ rest) = .ok (i, rest) := by
  obtain ⟨f⟩ := i
  change decode f.mode _ = _
  obtain ⟨hprefixes, hrex, hoperand⟩ := VmxonForm.wf_iff.1 h
  have hbytes : encode (.vmxon f) ++ rest =
      f.prefixes.map LegacyPrefix.toByte ++
        (f.rex.toList.map Rex.toByte ++ 0x0F#8 :: (0xC7#8 :: f.operand.toBytes ++ rest)) := by
    simp [encode, VmxonForm.toBytes]
  rw [hbytes]
  refine decode_ok_parts.2 ⟨f.prefixes, _, f.operand, takePrefixes_toBytes _ f.rex _, hprefixes, ?_, ?_⟩
  · rw [takeRex_toBytes hrex]
    exact takeOpcode_toBytes f.addrSize f.operand hoperand rest
  · rw [takeRex_toBytes hrex]

/-- What the decoder reads is the encoding of what it answers. -/
theorem decode_ok {mode : CodeMode} {bs rest : List Byte} {i : Instr} (h : decode mode bs = .ok (i, rest)) :
    bs = encode i ++ rest ∧ i.mode = mode ∧ i.wf = true := by
  obtain ⟨ps, bs1, op, hprefixes, hwf, hopcode, rfl⟩ := decode_ok_parts.1 h
  obtain ⟨hrexBytes, hrexWf⟩ := takeRex_eq mode bs1
  obtain ⟨hopBytes, hopWf⟩ := takeOpcode_ok hopcode
  refine ⟨?_, rfl, VmxonForm.wf_iff.2 ⟨hwf, hrexWf, hopWf⟩⟩
  calc bs = ps.map LegacyPrefix.toByte ++ bs1 := takePrefixes_ok hprefixes
    _ = ps.map LegacyPrefix.toByte ++ ((takeRex mode bs1).1.toList.map Rex.toByte ++
          (0x0F#8 :: 0xC7#8 :: op.toBytes ++ rest)) := by rw [← hopBytes, ← hrexBytes]
    _ = _ := by simp [encode, VmxonForm.toBytes]

/-- Settles O2: the parts of the decoder undo the parts of the encoder (`decode_encode`). -/
theorem decodeOfEncodeGivesTheInstruction : Obligations.DecodeOfEncodeGivesTheInstruction :=
  fun _ rest h => decode_encode h rest

/-- Settles O3: each part of the decoder says what bytes it read (`decode_ok`). -/
theorem decodedBytesAreTheEncoding : Obligations.DecodedBytesAreTheEncoding :=
  fun _ _ _ _ h => decode_ok h

/-! ## The length (R67) -/

theorem prefixes_length_of_wf {ps : List LegacyPrefix} (h : prefixesWf ps = true) :
    1 ≤ ps.length ∧ ps.length ≤ 3 := by
  obtain ⟨hmandatory, hsegment, haddress⟩ := prefixesWf_iff.1 h
  rw [length_eq_prefixCounts]
  omega

theorem Disp.size_cases {w : Nat} (wide : Nat) (d : Disp w) :
    d.size wide = 0 ∨ d.size wide = 1 ∨ d.size wide = wide := by
  cases d <;> simp [Disp.size]

theorem Operand.dispSize_mem (op : Operand) : op.dispSize ∈ [0, 1, 2, 4] := by
  cases op with
  | register | absolute16 | displacement32 | sibNoBase => simp [Operand.dispSize]
  | based16 _ d => rcases d.size_cases 2 with h | h | h <;> simp [Operand.dispSize, h]
  | based _ d | sib _ _ _ d => rcases d.size_cases 4 with h | h | h <;> simp [Operand.dispSize, h]

theorem Operand.sibSize_le (op : Operand) : op.sibSize ≤ 1 := by
  cases op <;> simp [Operand.sibSize]

/-- R67: from 4 to 12 bytes. -/
theorem VmxonForm.length_bounds {f : VmxonForm} (h : f.wf = true) : 4 ≤ f.length ∧ f.length ≤ 12 := by
  obtain ⟨hprefixes, -, -⟩ := VmxonForm.wf_iff.1 h
  obtain ⟨hmin, hmax⟩ := prefixes_length_of_wf hprefixes
  have hrex : f.rex.toList.length ≤ 1 := by cases f.rex <;> simp
  have hsib := f.operand.sibSize_le
  have hdisp : f.operand.dispSize ≤ 4 := by
    have := f.operand.dispSize_mem
    simp only [List.mem_cons, List.not_mem_nil, or_false] at this
    omega
  unfold VmxonForm.length
  omega

theorem encode_length (i : Instr) : (encode i).length = i.length := by
  obtain ⟨f⟩ := i
  exact Laws.EncodedLength.vmxon f

theorem encode_length_le {i : Instr} (h : i.wf = true) : (encode i).length ≤ maxLength := by
  obtain ⟨f⟩ := i
  rw [encode_length]
  exact (VmxonForm.length_bounds h).2

/-- Settles O4: the parts are bounded one by one; the longest form is one with three prefixes, REX, SIB and disp32. -/
theorem lengthIsTheSumOfThePartsAndBounded : Obligations.LengthIsTheSumOfThePartsAndBounded := by
  refine ⟨fun f h => ?_, ⟨⟨.m64, [.mandatory], none, .based 0 .absent⟩, by decide⟩,
    ⟨⟨.m64, [.segment .fs, .addressSize, .mandatory], some ⟨true, true, true, true⟩, .sib 0 0 0 (.wide 0)⟩, by decide⟩⟩
  obtain ⟨hprefixes, -, -⟩ := VmxonForm.wf_iff.1 h
  obtain ⟨hmin, hmax⟩ := prefixes_length_of_wf hprefixes
  exact ⟨encode_length (.vmxon f), (encode_length (.vmxon f)).symm, hmin, hmax, f.operand.dispSize_mem,
    VmxonForm.length_bounds h⟩

/-! ## What is refused (R64, R65) -/

/-- Bytes the decoder answers nothing for end in an error. -/
theorem decode_error_of_not_ok {mode : CodeMode} {bs : List Byte} (h : ∀ i rest, decode mode bs ≠ .ok (i, rest)) :
    ∃ e, decode mode bs = .error e := by
  cases hd : decode mode bs with
  | ok r => exact absurd hd (h r.1 r.2)
  | error e => exact ⟨e, rfl⟩

/-- Settles O5: the prefixes themselves end in an error at `66`, `F2` or `F0`, and what decodes is well-formed. -/
theorem onlyTheAdmittedPrefixesDecode : Obligations.OnlyTheAdmittedPrefixesDecode := by
  refine ⟨fun mode ps b bs hb => ?_, fun mode bs rest f h => ?_⟩
  · have hrefused : refusedPrefix b = true := by
      simp only [List.mem_cons, List.not_mem_nil, or_false] at hb
      rcases hb with rfl | rfl | rfl <;> decide
    refine decode_error_of_not_ok fun i rest h => ?_
    obtain ⟨_, _, _, hprefixes, -⟩ := decode_ok_parts.1 h
    rw [takePrefixes_refused ps bs hrefused] at hprefixes
    cases hprefixes
  · obtain ⟨-, hmode, hwf⟩ := decode_ok h
    obtain ⟨hprefixes, hrex, -⟩ := VmxonForm.wf_iff.1 hwf
    obtain ⟨hmandatory, hsegment, haddress⟩ := prefixesWf_iff.1 hprefixes
    rw [List.countP_eq_length_filter] at hsegment
    exact ⟨hmandatory, hsegment, haddress, fun hsome => hmode ▸ rexWf_iff.1 hrex hsome⟩

/-- Settles O6: the prefixes end at the byte, and `0F` must stand behind it or, outside 64-bit mode, in its place. -/
theorem rexByteIsReadIn64BitModeOnly : Obligations.RexByteIsReadIn64BitModeOnly := by
  intro mode ps b bs hb hmode
  obtain ⟨hrefused, hlegacy⟩ := rexByte_ends_prefixes hb
  refine decode_error_of_not_ok fun i rest h => ?_
  obtain ⟨ps', bs1, op, hprefixes, -, hopcode, -⟩ := decode_ok_parts.1 h
  rw [takePrefixes_map ps bs hrefused hlegacy] at hprefixes
  cases hprefixes
  obtain ⟨hopBytes, -⟩ := takeOpcode_ok hopcode
  by_cases h64 : mode = .m64
  · obtain ⟨r, rfl⟩ := rexByte_eq_toByte hb
    subst h64
    rw [takeRex_some] at hopBytes
    cases hopBytes
    simp at hmode
  · rw [takeRex_legacy h64] at hopBytes
    cases hopBytes
    exact absurd hb (by decide)

end Sys2Proof

namespace Sys2Proof.Machine

/-! ## The step over the fetched bytes -/

/-- Bytes that are all there are fetched, as far as the fetch reaches. -/
theorem State.fetchFrom_of_present (s : State) {bs : List Byte} {n i : Nat} (hn : bs.length ≤ n)
    (h : ∀ (k : Nat) (b : Byte), bs[k]? = some b → s.fetchByte (i + k) = some b) :
    ∃ rest, s.fetchFrom n i = bs ++ rest := by
  induction bs generalizing n i with
  | nil => exact ⟨s.fetchFrom n i, rfl⟩
  | cons b bs ih =>
    cases n with
    | zero => simp at hn
    | succ n =>
      have hfirst : s.fetchByte i = some b := h 0 b rfl
      obtain ⟨rest, hrest⟩ := ih (n := n) (i := i + 1) (by simpa using hn) fun k c hk => by
        rw [show i + 1 + k = i + (k + 1) by omega]
        exact h (k + 1) c hk
      exact ⟨rest, by simp [State.fetchFrom, hfirst, hrest]⟩

/-- Fetched bytes that begin with an encoding are that instruction. -/
theorem State.fetchInstr_of_bytes {s : State} {i : Instr} {rest : List Byte} (hwf : i.wf = true)
    (hmode : i.mode = s.codeMode) (h : s.fetchBytes = encode i ++ rest) : s.fetchInstr = .ok (i, rest) := by
  rw [State.fetchInstr, h, ← hmode, decode_encode hwf]

theorem step_of_fetchInstr {s : State} {i : Instr} {rest : List Byte} (h : s.fetchInstr = .ok (i, rest)) :
    step s = exec i s := by
  simp [step, h]

/-- A step is refused exactly where no instruction is fetched. -/
theorem step_refused_iff {s : State} : (∃ r, step s = .refused r) ↔ ∃ e, s.fetchInstr = .error e := by
  cases h : s.fetchInstr with
  | error e => simp [step, h]
  | ok r =>
    obtain ⟨⟨f⟩, rest⟩ := r
    simp [step_of_fetchInstr h, exec_vmxon, execVmxon_ne_refused]

/-- Settles O7: the bytes reach the decoder, which reads the instruction back. -/
theorem stepExecutesTheFetchedInstruction : Obligations.StepExecutesTheFetchedInstruction := by
  intro s i hwf hmode hbytes
  obtain ⟨rest, hfetch⟩ : ∃ rest, s.fetchFrom maxLength 0 = encode i ++ rest :=
    s.fetchFrom_of_present (encode_length_le hwf) fun k b hk => by simpa using hbytes k b hk
  exact step_of_fetchInstr (State.fetchInstr_of_bytes hwf hmode hfetch)

/-- Settles O8: both directions of the round trip, `State.fetchInstr_of_bytes` and `decode_ok`. -/
theorem stepRefusesExactlyTheOtherBytes : Obligations.StepRefusesExactlyTheOtherBytes := by
  intro s
  rw [step_refused_iff]
  constructor
  · rintro ⟨e, he⟩ i rest hwf hmode hfetch
    rw [State.fetchInstr_of_bytes hwf hmode hfetch] at he
    cases he
  · intro h
    refine decode_error_of_not_ok fun i rest hd => ?_
    obtain ⟨hfetch, hmode, hwf⟩ := decode_ok hd
    exact h i rest hwf hmode hfetch

end Sys2Proof.Machine

/-! PROOFS. The addressing statements (spec/30_encoding.md R65, R68 to R71, R74): the operand by the fields of its
bytes, its effective address and its segment. -/

namespace Sys2Proof

open Machine

/-! ## Displacement fields -/

/-- R68, R69: the displacement as a value of the wide form's width, 0 where it is absent. -/
def Disp.field {w : Nat} : Disp w → BitVec w
  | .absent => 0#w
  | .byte d => d.signExtend w
  | .wide d => d

theorem dispField16_of_take16 {bs : List Byte} {d : BitVec 16} (h : take16 bs = .ok (d, [])) :
    dispField16 2#2 bs = some d := by
  unfold take16 at h
  split at h <;> cases h
  rfl

theorem dispField16_of_takeDisp {mod : BitVec 2} (hm : mod ≠ 3#2) {bs : List Byte} {d : Disp 16}
    (h : takeDisp take16 mod bs = .ok (d, [])) : dispField16 mod bs = some d.field := by
  obtain ⟨rfl, rfl⟩ := takeDisp_ok (fun _ _ _ => take16_ok) hm h
  cases d with
  | absent => rfl
  | byte b => rfl
  | wide d => exact dispField16_of_take16 (take16_bytes16 d [])

theorem disp32Field_of_take32 {bs : List Byte} {d : BitVec 32} (h : take32 bs = .ok (d, [])) :
    disp32Field bs = some d := by
  unfold take32 at h
  split at h <;> cases h
  rfl

theorem dispField32_of_takeDisp {mod : BitVec 2} (hm : mod ≠ 3#2) {bs : List Byte} {d : Disp 32}
    (h : takeDisp take32 mod bs = .ok (d, [])) : dispField32 mod bs = some d.field := by
  obtain ⟨rfl, rfl⟩ := takeDisp_ok (fun _ _ _ => take32_ok) hm h
  cases d with
  | absent => rfl
  | byte b => rfl
  | wide d => exact disp32Field_of_take32 (take32_bytes32 d [])

/-! ## The operand by the fields of its bytes -/

/-- The decoder reads an operand back from its ModRM byte and the bytes behind it. -/
theorem takeOperand_of_toBytes {op : Operand} {size : AddrSize} (hwf : op.wf size = true) {mod : BitVec 2}
    {rm : BitVec 3} {tail : List Byte} (h : op.toBytes = modRm mod rm :: tail) :
    takeOperand size mod rm tail = .ok (op, []) := by
  have hop := takeOpcode_toBytes size op hwf []
  rw [h] at hop
  simpa [takeOpcode, modRm_fields] using hop

section Fields

variable {op : Operand} {mod : BitVec 2} {rm : BitVec 3} {tail : List Byte}

/-- R68: 16-bit addressing, disp16 alone. -/
theorem absolute16_of_toBytes (hwf : op.wf .a16 = true) (hm : mod ≠ 3#2) (h : op.toBytes = modRm mod rm :: tail)
    (hc : mod = 0#2 ∧ rm = 6#3) : ∃ lo hi, tail = [lo, hi] ∧ op = .absolute16 (hi ++ lo) := by
  have hop := takeOperand_of_toBytes hwf h
  simp only [takeOperand, if_neg hm, takeOperand16, if_pos hc] at hop
  split at hop <;> cases hop
  rename_i d htake
  unfold take16 at htake
  split at htake <;> cases htake
  exact ⟨_, _, rfl, rfl⟩

/-- R68: 16-bit addressing, the other forms. -/
theorem based16_of_toBytes (hwf : op.wf .a16 = true) (hm : mod ≠ 3#2) (h : op.toBytes = modRm mod rm :: tail)
    (hc : ¬(mod = 0#2 ∧ rm = 6#3)) :
    ∃ d : Disp 16, dispField16 mod tail = some d.field ∧ op = .based16 (base16OfRm rm) d := by
  have hop := takeOperand_of_toBytes hwf h
  simp only [takeOperand, if_neg hm, takeOperand16, if_neg hc] at hop
  split at hop <;> cases hop
  rename_i d htake
  exact ⟨d, dispField16_of_takeDisp hm htake, rfl⟩

/-- With 32-bit and 64-bit addresses the operand is read by `takeOperand32`. -/
theorem takeOperand32_of_toBytes {size : AddrSize} (hs : size ≠ .a16) (hwf : op.wf size = true) (hm : mod ≠ 3#2)
    (h : op.toBytes = modRm mod rm :: tail) : takeOperand32 mod rm tail = .ok (op, []) := by
  have hop := takeOperand_of_toBytes hwf h
  cases size with
  | a16 => exact absurd rfl hs
  | a32 | a64 => simpa only [takeOperand, if_neg hm] using hop

/-- R69, R74: a base register and no SIB byte. -/
theorem based_of_takeOperand32 (hm : mod ≠ 3#2) (h : takeOperand32 mod rm tail = .ok (op, [])) (hrm : rm ≠ 4#3)
    (hc : ¬(mod = 0#2 ∧ rm = 5#3)) : ∃ d : Disp 32, dispField32 mod tail = some d.field ∧ op = .based rm d := by
  simp only [takeOperand32, if_neg hrm, if_neg hc] at h
  split at h <;> cases h
  rename_i d htake
  exact ⟨d, dispField32_of_takeDisp hm htake, rfl⟩

/-- R69, R74: disp32 alone. -/
theorem displacement32_of_takeOperand32 (h : takeOperand32 mod rm tail = .ok (op, [])) (hc : mod = 0#2 ∧ rm = 5#3) :
    ∃ d, disp32Field tail = some d ∧ op = .displacement32 d := by
  have hrm : rm ≠ 4#3 := by rw [hc.2]; decide
  simp only [takeOperand32, if_neg hrm, if_pos hc] at h
  split at h <;> cases h
  rename_i d htake
  exact ⟨d, disp32Field_of_take32 htake, rfl⟩

/-- R69, R74: a SIB byte, which names a base register or, with `mod` = 00 and `base` = 101, none. -/
theorem sib_of_takeOperand32 (hm : mod ≠ 3#2) (h : takeOperand32 mod rm tail = .ok (op, [])) (hrm : rm = 4#3) :
    ∃ (sib : Byte) (tail' : List Byte), tail = sib :: tail' ∧
      (mod = 0#2 ∧ sib.extractLsb' 0 3 = 5#3 →
        ∃ d, disp32Field tail' = some d ∧ op = .sibNoBase (sib.extractLsb' 6 2) (sib.extractLsb' 3 3) d) ∧
      (¬(mod = 0#2 ∧ sib.extractLsb' 0 3 = 5#3) →
        ∃ d : Disp 32, dispField32 mod tail' = some d.field ∧
          op = .sib (sib.extractLsb' 6 2) (sib.extractLsb' 3 3) (sib.extractLsb' 0 3) d) := by
  simp only [takeOperand32, if_pos hrm] at h
  cases tail with
  | nil => cases h
  | cons sib tail' =>
    refine ⟨sib, tail', rfl, fun hc => ?_, fun hc => ?_⟩
    · simp only [takeSib, if_pos hc] at h
      split at h <;> cases h
      rename_i d htake
      exact ⟨d, disp32Field_of_take32 htake, rfl⟩
    · simp only [takeSib, if_neg hc] at h
      split at h <;> cases h
      rename_i d htake
      exact ⟨d, dispField32_of_takeDisp hm htake, rfl⟩

end Fields

end Sys2Proof

namespace Sys2Proof.Machine

/-! ## Terms of the effective address -/

theorem dispValue_setWidth_16 (d : Disp 16) : (dispValue d).setWidth 16 = d.field := by
  cases d with
  | absent => rfl
  | byte b => exact signExtend_byte_setWidth b
  | wide d => exact signExtend_setWidth_self d (by decide)

/-- A 32-bit displacement field is sign-extended to the sum's 64 bits. -/
theorem dispValue_eq_signExtend (d : Disp 32) : dispValue d = d.field.signExtend 64 := by
  cases d with
  | absent => rfl
  | byte b => exact (signExtend_byte_signExtend b).symm
  | wide d => rfl

theorem dispValue_setWidth_32 (d : Disp 32) : (dispValue d).setWidth 32 = d.field := by
  rw [dispValue_eq_signExtend, signExtend_setWidth_self _ (by decide)]

/-- R70: cut to the address size, a register read at that size is the register. -/
theorem State.addrReg_setWidth (s : State) (size : AddrSize) (i : BitVec 4) :
    (s.addrReg size i).setWidth size.bits = (s.gpr i).setWidth size.bits := by
  have hsize : size.bits ≤ 64 := by cases size <;> decide
  rw [State.addrReg, wrapAddr, BitVec.setWidth_setWidth_of_le _ hsize, BitVec.setWidth_setWidth_of_le _ le_rfl]

@[simp] theorem State.addrReg_a16_setWidth (s : State) (i : BitVec 4) :
    (s.addrReg .a16 i).setWidth 16 = (s.gpr i).setWidth 16 := s.addrReg_setWidth .a16 i

@[simp] theorem State.addrReg_a32_setWidth (s : State) (i : BitVec 4) :
    (s.addrReg .a32 i).setWidth 32 = (s.gpr i).setWidth 32 := s.addrReg_setWidth .a32 i

theorem shiftLeft_eq_mul_pow {w : Nat} (x : BitVec w) (n : Nat) : x <<< n = x * 2#w ^ n := by
  apply BitVec.eq_of_toNat_eq
  simp [BitVec.toNat_mul, BitVec.toNat_pow, Nat.shiftLeft_eq, Nat.mul_mod, Nat.pow_mod]

/-- R69, R74: the index is scaled by a power of two. -/
theorem State.indexValue_eq_mul (s : State) (size : AddrSize) (rex : Option Rex) (scale : BitVec 2) (index : BitVec 3) :
    s.indexValue size rex scale index =
      if regNumber (rexX rex) index = 4#4 then 0#64
      else s.addrReg size (regNumber (rexX rex) index) * 2#64 ^ scale.toNat := by
  rw [State.indexValue, shiftLeft_eq_mul_pow]

theorem regNumber_false_eq_four {n : BitVec 3} : regNumber false n = 4#4 ↔ n = 4#3 := by revert n; decide

theorem regNumber_false_eq_five {n : BitVec 3} : regNumber false n = 5#4 ↔ n = 5#3 := by revert n; decide

/-- R69: the scaled index outside 64-bit mode. -/
theorem State.indexValue_legacy (s : State) (scale : BitVec 2) (index : BitVec 3) :
    (s.indexValue .a32 none scale index).setWidth 32 =
      if index = 4#3 then 0#32 else (s.gpr (index.setWidth 4)).setWidth 32 * 2#32 ^ scale.toNat := by
  simp only [State.indexValue, rexX, regNumber_false_eq_four]
  split_ifs
  · rfl
  · rw [BitVec.setWidth_shiftLeft_of_le (by decide), State.addrReg_a32_setWidth, shiftLeft_eq_mul_pow, regNumber_false]

/-- R68: the base of a 16-bit form, by `rm`. -/
theorem State.base16Value_setWidth (s : State) (rm : BitVec 3) :
    (s.base16Value (base16OfRm rm)).setWidth 16 =
      let bx : BitVec 16 := (s.gpr 3#4).setWidth 16
      let bp : BitVec 16 := (s.gpr 5#4).setWidth 16
      let si : BitVec 16 := (s.gpr 6#4).setWidth 16
      let di : BitVec 16 := (s.gpr 7#4).setWidth 16
      if rm = 0#3 then bx + si else if rm = 1#3 then bx + di else if rm = 2#3 then bp + si
      else if rm = 3#3 then bp + di else if rm = 4#3 then si else if rm = 5#3 then di
      else if rm = 6#3 then bp else bx := by
  unfold base16OfRm
  split_ifs <;> simp [State.base16Value, BitVec.setWidth_add]

theorem base16Segment_base16OfRm (rm : BitVec 3) :
    base16Segment (base16OfRm rm) = if rm = 2#3 ∨ rm = 3#3 ∨ rm = 6#3 then .ss else .ds := by
  revert rm; decide

/-- R69: outside 64-bit mode a base register without SIB byte is not ESP. -/
theorem baseSegment_of_rm {high : Bool} {rm : BitVec 3} (hrm : rm ≠ 4#3) :
    baseSegment (regNumber high rm) = if regNumber high rm = 5#4 then .ss else .ds := by
  revert high rm; decide

/-! ## The effective address of each operand form -/

section EffectiveAddress

variable {s : State} {f : VmxonForm}

theorem effectiveAddress_of_absolute16 {d : BitVec 16} (h : f.operand = .absolute16 d) :
    s.effectiveAddress f = wrapAddr f.addrSize (d.setWidth 64) := by
  simp [State.effectiveAddress, State.eaTerms, h]

theorem effectiveAddress_of_based16 {b : Base16} {d : Disp 16} (h : f.operand = .based16 b d) :
    s.effectiveAddress f = wrapAddr f.addrSize (s.base16Value b + dispValue d) := by
  simp [State.effectiveAddress, State.eaTerms, h]

/-- R74: RIP-relative. -/
theorem effectiveAddress_of_ripRelative {d : BitVec 32} (hmode : f.mode = .m64) (h : f.operand = .displacement32 d) :
    s.effectiveAddress f = wrapAddr f.addrSize (s.rip + BitVec.ofNat 64 f.length + d.signExtend 64) := by
  simp [State.effectiveAddress, State.eaTerms, h, hmode]

theorem effectiveAddress_of_displacement32 {d : BitVec 32} (hmode : f.mode ≠ .m64)
    (h : f.operand = .displacement32 d) : s.effectiveAddress f = wrapAddr f.addrSize (d.setWidth 64) := by
  cases hm : f.mode with
  | m64 => exact absurd hm hmode
  | m16 | m32 => simp [State.effectiveAddress, State.eaTerms, h, hm]

theorem effectiveAddress_of_based {rm : BitVec 3} {d : Disp 32} (h : f.operand = .based rm d) :
    s.effectiveAddress f =
      wrapAddr f.addrSize (s.addrReg f.addrSize (regNumber (rexB f.rex) rm) + dispValue d) := by
  simp [State.effectiveAddress, State.eaTerms, h]

theorem effectiveAddress_of_sib {scale : BitVec 2} {index base : BitVec 3} {d : Disp 32}
    (h : f.operand = .sib scale index base d) :
    s.effectiveAddress f = wrapAddr f.addrSize (s.addrReg f.addrSize (regNumber (rexB f.rex) base) +
      s.indexValue f.addrSize f.rex scale index + dispValue d) := by
  simp [State.effectiveAddress, State.eaTerms, h]

theorem effectiveAddress_of_sibNoBase {scale : BitVec 2} {index : BitVec 3} {d : BitVec 32}
    (h : f.operand = .sibNoBase scale index d) :
    s.effectiveAddress f =
      wrapAddr f.addrSize (s.indexValue f.addrSize f.rex scale index + d.signExtend 64) := by
  simp [State.effectiveAddress, State.eaTerms, h]

end EffectiveAddress

/-! ## Address sizes (R70) -/

theorem State.codeMode_of_is64 {s : State} (h : s.eferLma = true ∧ s.csL = true) : s.codeMode = .m64 := by
  simp [State.codeMode, State.is64, h]

theorem State.codeMode_of_not_is64 {s : State} (h : ¬(s.eferLma = true ∧ s.csL = true)) :
    s.codeMode = if s.csD then .m32 else .m16 := by
  simp [State.codeMode, State.is64, h]

theorem addrSize_of_m64 {f : VmxonForm} (h : f.mode = .m64) :
    f.addrSize = if f.prefixes.contains .addressSize then .a32 else .a64 := by
  rw [VmxonForm.addrSize, h]
  cases f.prefixes.contains .addressSize <;> rfl

theorem addrSize_ne_a16_of_m64 {f : VmxonForm} (h : f.mode = .m64) : f.addrSize ≠ .a16 := by
  rw [addrSize_of_m64 h]
  split_ifs <;> decide

/-- R74: in 64-bit mode an address is cut under `67` only, to 32 bits. -/
theorem wrapAddr_of_m64 {f : VmxonForm} (h : f.mode = .m64) (v : Word64) :
    wrapAddr f.addrSize v = if f.prefixes.contains .addressSize then (v.setWidth 32).setWidth 64 else v := by
  rw [addrSize_of_m64 h]
  split_ifs
  · exact wrapAddr_a32 v
  · exact wrapAddr_a64 v

theorem rex_none_of_legacy {f : VmxonForm} (hwf : f.wf = true) (hmode : f.mode ≠ .m64) : f.rex = none := by
  obtain ⟨-, hrex, -⟩ := VmxonForm.wf_iff.1 hwf
  simpa using mt (rexWf_iff.1 hrex) hmode

theorem rexB_eq_any (rex : Option Rex) : rexB rex = rex.any (fun r => r.b) := by cases rex <;> rfl

theorem rexX_eq_any (rex : Option Rex) : rexX rex = rex.any (fun r => r.x) := by cases rex <;> rfl

/-- Settles O29: the operand is that of `rm`, and every term is cut to 16 bits. -/
theorem sixteenBitEffectiveAddress : Obligations.SixteenBitEffectiveAddress := by
  intro s f mod rm tail hwf hsize hm hbytes bx bp si di base
  obtain ⟨-, -, hop⟩ := VmxonForm.wf_iff.1 hwf
  rw [hsize] at hop
  refine ⟨fun hc => ?_, fun hc => ?_⟩
  · obtain ⟨lo, hi, htail, he⟩ := absolute16_of_toBytes hop hm hbytes hc
    refine ⟨lo, hi, htail, ?_, by rw [he]; rfl⟩
    rw [effectiveAddress_of_absolute16 he, hsize, wrapAddr_a16, BitVec.setWidth_setWidth_of_le (k := 16) _ (by decide),
      BitVec.setWidth_eq]
  · obtain ⟨d, hfield, he⟩ := based16_of_toBytes hop hm hbytes hc
    refine ⟨d.field, hfield, ?_, by rw [he]; exact base16Segment_base16OfRm rm⟩
    rw [effectiveAddress_of_based16 he, hsize, wrapAddr_a16, BitVec.setWidth_add (i := 16) _ _ (by decide),
      State.base16Value_setWidth, dispValue_setWidth_16]

/-- Settles O30: the operand is that of the ModRM and SIB bytes, there is no REX, and every term is cut to 32 bits. -/
theorem thirtyTwoBitEffectiveAddress : Obligations.ThirtyTwoBitEffectiveAddress := by
  intro s f mod rm tail hwf hmode hsize hm hbytes reg
  obtain ⟨-, -, hopwf⟩ := VmxonForm.wf_iff.1 hwf
  have hrex := rex_none_of_legacy hwf hmode
  have hop := takeOperand32_of_toBytes (by rw [hsize]; decide) hopwf hm hbytes
  have hbase (n : BitVec 3) : (s.addrReg .a32 (regNumber false n)).setWidth 32 = reg n := by
    rw [State.addrReg_a32_setWidth, regNumber_false]
  have hadd (x y : Word64) : (x + y).setWidth 32 = x.setWidth 32 + y.setWidth 32 := BitVec.setWidth_add x y (by decide)
  refine ⟨fun hrm hc => ?_, fun hc => ?_, fun hrm => ?_⟩
  · obtain ⟨d, hfield, he⟩ := based_of_takeOperand32 hm hop hrm hc
    refine ⟨d.field, hfield, ?_, ?_⟩
    · rw [effectiveAddress_of_based he, hsize, hrex, wrapAddr_a32, hadd, rexB, hbase, dispValue_setWidth_32]
    · rw [he, defaultSegment, hrex, rexB, baseSegment_of_rm hrm]
      simp only [regNumber_false_eq_five]
  · obtain ⟨d, hfield, he⟩ := displacement32_of_takeOperand32 hop hc
    refine ⟨d, hfield, ?_, by rw [he]; rfl⟩
    rw [effectiveAddress_of_displacement32 hmode he, hsize, wrapAddr_a32,
      BitVec.setWidth_setWidth_of_le (k := 32) _ (by decide), BitVec.setWidth_eq]
  · obtain ⟨sib, tail', htail, hnoBase, hsib⟩ := sib_of_takeOperand32 hm hop hrm
    refine ⟨sib, tail', htail, fun hc => ?_, fun hc => ?_⟩
    · obtain ⟨d, hfield, he⟩ := hnoBase hc
      refine ⟨d, hfield, ?_, by rw [he]; rfl⟩
      rw [effectiveAddress_of_sibNoBase he, hsize, hrex, wrapAddr_a32, hadd, State.indexValue_legacy,
        signExtend_setWidth_self _ (by decide)]
    · obtain ⟨d, hfield, he⟩ := hsib hc
      refine ⟨d.field, hfield, ?_, ?_⟩
      · rw [effectiveAddress_of_sib he, hsize, hrex, wrapAddr_a32, hadd, hadd, rexB, hbase, State.indexValue_legacy,
          dispValue_setWidth_32]
      · rw [he, defaultSegment, hrex, rexB, baseSegment]
        simp only [regNumber_false_eq_four, regNumber_false_eq_five]

/-- Settles O31: the operand is that of the ModRM and SIB bytes, and `cut` is the model's `wrapAddr` in 64-bit mode. -/
theorem sixtyFourBitModeEffectiveAddress : Obligations.SixtyFourBitModeEffectiveAddress := by
  intro s f mod rm tail hwf hmode hm hbytes cut rexBBit rexXBit reg
  obtain ⟨-, -, hopwf⟩ := VmxonForm.wf_iff.1 hwf
  have hop := takeOperand32_of_toBytes (addrSize_ne_a16_of_m64 hmode) hopwf hm hbytes
  have hcut (v : Word64) : wrapAddr f.addrSize v = cut v := wrapAddr_of_m64 hmode v
  have hreg (n : BitVec 4) : s.addrReg f.addrSize n = reg n := hcut (s.gpr n)
  have hb (n : BitVec 3) : regNumber (rexB f.rex) n = rexBBit ++ n := by rw [rexB_eq_any]; rfl
  have hx (n : BitVec 3) : regNumber (rexX f.rex) n = rexXBit ++ n := by rw [rexX_eq_any]; rfl
  refine ⟨fun hrm hc => ?_, fun hc h67 => ?_, fun hrm => ?_⟩
  · obtain ⟨d, hfield, he⟩ := based_of_takeOperand32 hm hop hrm hc
    refine ⟨d.field, hfield, ?_, ?_⟩
    · rw [effectiveAddress_of_based he, hcut, hreg, hb, dispValue_eq_signExtend]
    · rw [he, defaultSegment, baseSegment_of_rm hrm, hb]
  · obtain ⟨d, hfield, he⟩ := displacement32_of_takeOperand32 hop hc
    refine ⟨d, hfield, ?_, by rw [he]; rfl⟩
    rw [effectiveAddress_of_ripRelative hmode he, wrapAddr_of_m64 hmode, h67]
    rfl
  · obtain ⟨sib, tail', htail, hnoBase, hsib⟩ := sib_of_takeOperand32 hm hop hrm
    refine ⟨sib, tail', htail, fun hc => ?_, fun hc => ?_⟩
    · obtain ⟨d, hfield, he⟩ := hnoBase hc
      refine ⟨d, hfield, ?_, by rw [he]; rfl⟩
      rw [effectiveAddress_of_sibNoBase he, hcut, State.indexValue_eq_mul, hx, hreg]
    · obtain ⟨d, hfield, he⟩ := hsib hc
      refine ⟨d.field, hfield, ?_, ?_⟩
      · rw [effectiveAddress_of_sib he, hcut, State.indexValue_eq_mul, hx, hb, hreg, hreg, dispValue_eq_signExtend]
      · rw [he, defaultSegment, baseSegment, hb]

/-- Settles O32: `wrapAddr` cuts to 32 bits under `67`. -/
theorem ripRelativeUnderTheAddressSizeOverride : Obligations.RipRelativeUnderTheAddressSizeOverride := by
  intro s f d _ hmode h67 he
  refine ⟨?_, by rw [he]; rfl⟩
  rw [effectiveAddress_of_ripRelative hmode he, wrapAddr_of_m64 hmode, if_pos h67]

/-! ## Registers enter the address at the address size (R70) -/

/-- Only 16-bit addressing has the 16-bit base forms. -/
theorem addrSize_of_based16 {f : VmxonForm} {b : Base16} {d : Disp 16} (hwf : f.wf = true)
    (h : f.operand = .based16 b d) : f.addrSize = .a16 := by
  obtain ⟨-, -, hop⟩ := VmxonForm.wf_iff.1 hwf
  rw [h] at hop
  simp only [Operand.wf, Bool.and_eq_true, beq_iff_eq] at hop
  obtain ⟨hsize, -⟩ := hop
  exact hsize

/-- States that agree in the instruction pointer and in every register at the address size give the same terms. -/
theorem State.eaTerms_congr {f : VmxonForm} {s t : State} (hwf : f.wf = true) (hrip : s.rip = t.rip)
    (hreg : ∀ n, s.addrReg f.addrSize n = t.addrReg f.addrSize n) : s.eaTerms f = t.eaTerms f := by
  unfold State.eaTerms
  cases hop : f.operand with
  | register | absolute16 => rfl
  | based16 b d =>
    rw [addrSize_of_based16 hwf hop] at hreg
    cases b <;> simp only [State.base16Value, hreg]
  | displacement32 d => simp only [hrip]
  | based rm d => simp only [hreg]
  | sib scale index base d => simp only [State.indexValue, hreg]
  | sibNoBase scale index d => simp only [State.indexValue, hreg]

/-- Settles O33: the three facts are about `codeMode`, `addrSizeOf` and `eaTerms`. -/
theorem registersAreReadAtTheAddressSize : Obligations.RegistersAreReadAtTheAddressSize := by
  refine ⟨fun s => ⟨State.codeMode_of_is64, fun h hD => ?_, fun h hD => ?_⟩, fun f => ?_, fun f s t hrip h hwf => ?_⟩
  · rw [State.codeMode_of_not_is64 h, hD]; rfl
  · rw [State.codeMode_of_not_is64 h, hD]; rfl
  · unfold VmxonForm.addrSize
    cases f.mode <;> cases f.prefixes.contains .addressSize <;> rfl
  · have hreg (n : BitVec 4) : s.addrReg f.addrSize n = t.addrReg f.addrSize n := by
      rw [State.addrReg, State.addrReg, wrapAddr, wrapAddr, h n]
    exact ⟨congrArg (wrapAddr f.addrSize) (State.eaTerms_congr hwf hrip hreg), wrapAddr_lt f.addrSize (s.eaTerms f)⟩

/-! ## Segment overrides (R65, R71) -/

theorem findSome?_overrideOf_none {ps : List LegacyPrefix} (h : ∀ r, LegacyPrefix.segment r ∉ ps) :
    ps.findSome? overrideOf = none := by
  rw [List.findSome?_eq_none_iff]
  intro p hp
  cases p with
  | segment r => exact absurd hp (h r)
  | mandatory | addressSize => rfl

/-- With at most one override, the one that stands there is found. -/
theorem findSome?_overrideOf_some {ps : List LegacyPrefix} (hone : ps.countP LegacyPrefix.isSegment ≤ 1) {r : SegReg}
    (h : LegacyPrefix.segment r ∈ ps) : ps.findSome? overrideOf = some r := by
  induction ps with
  | nil => cases h
  | cons p ps ih =>
    cases p with
    | mandatory | addressSize =>
      rw [List.findSome?_cons, overrideOf]
      exact ih (by simpa [List.countP_cons, LegacyPrefix.isSegment] using hone) (by simpa using h)
    | segment r' =>
      have hrest : ps.countP LegacyPrefix.isSegment = 0 := by
        simpa [List.countP_cons, LegacyPrefix.isSegment] using hone
      have hnone : LegacyPrefix.segment r ∉ ps := fun hmem => List.countP_eq_zero.1 hrest _ hmem rfl
      have hr : r = r' := by simpa [hnone] using h
      rw [List.findSome?_cons, overrideOf, hr]

theorem overrideHolds_iff {mode : CodeMode} {r : SegReg} :
    overrideHolds mode r = true ↔ mode ≠ .m64 ∨ r = .fs ∨ r = .gs := by
  cases mode with
  | m16 | m32 => simp [overrideHolds]
  | m64 => cases r <;> simp [overrideHolds]

/-- Settles O34: a well-formed instruction has at most one override, and `overrideHolds` says whether it counts. -/
theorem segmentOverrideReplacesTheDefault : Obligations.SegmentOverrideReplacesTheDefault := by
  intro f hwf
  obtain ⟨hprefixes, -, -⟩ := VmxonForm.wf_iff.1 hwf
  obtain ⟨-, hone, -⟩ := prefixesWf_iff.1 hprefixes
  refine ⟨fun h => by rw [operandSegment, findSome?_overrideOf_none h], fun r hr => ?_⟩
  have hsegment : operandSegment f = if overrideHolds f.mode r then r else defaultSegment f.rex f.operand := by
    rw [operandSegment, findSome?_overrideOf_some hone hr]
  refine ⟨fun h => ?_, fun hmode hfs hgs => ?_⟩
  · rw [hsegment, if_pos (overrideHolds_iff.2 h)]
  · rw [hsegment, if_neg]
    rw [overrideHolds_iff]
    tauto

end Sys2Proof.Machine

/-! PROOFS. The VMXON statements (spec/40_vmxon.md R80 to R116): the tests before the operand, the completions in and
outside VMX operation, and what a completion changes and leaves unchanged. -/

namespace Sys2Proof.Machine

/-! ## Fixed bits of CR0 and CR4 (R87) -/

/-- R87: a register against a pair of fixed-bit masks, bit by bit. -/
theorem and_masks_iff {x a b : Word64} :
    (x &&& a = a ∧ x &&& ~~~b = 0#64) ↔
      ∀ k < 64, (a.getLsbD k = true → x.getLsbD k = true) ∧ (b.getLsbD k = false → x.getLsbD k = false) := by
  have hfixed1 : x &&& a = a ↔ ∀ k < 64, a.getLsbD k = true → x.getLsbD k = true := by
    simp only [BitVec.eq_of_getLsbD_eq_iff, BitVec.getLsbD_and, Bool.and_eq_right_iff_imp]
  have hfixed0 : x &&& ~~~b = 0#64 ↔ ∀ k < 64, b.getLsbD k = false → x.getLsbD k = false := by
    rw [BitVec.eq_of_getLsbD_eq_iff]
    refine forall₂_congr fun k hk => ?_
    rw [BitVec.getLsbD_and, BitVec.getLsbD_not, BitVec.getLsbD_zero]
    cases b.getLsbD k <;> simp [hk]
  rw [hfixed1, hfixed0, ← forall₂_and]

/-- Settles O47: the two masks of each register are `and_masks_iff`. -/
theorem fixedBitsAreTheDefaultOfCr0Cr4Supported : Obligations.FixedBitsAreTheDefaultOfCr0Cr4Supported := by
  intro s a b c d hfixed
  rw [cr0Cr4Supported, hfixed, CrPredicate.holds_fixedBits, ← and_assoc, and_masks_iff, and_masks_iff]

/-! ## IA32_FEATURE_CONTROL (R89 to R91) -/

/-- R89 to R91: the tests of IA32_FEATURE_CONTROL as values of its three low bits. -/
theorem featureControlAllows_iff {s : State} :
    featureControlAllows s = true ↔
      s.featureControl.extractLsb' 0 3 ∈ (if s.smx then [0b011#3, 0b111#3] else [0b101#3, 0b111#3]) := by
  have hvalues : ∀ (b : BitVec 3) (smx : Bool),
      (b.getLsbD 0 && (if smx then b.getLsbD 1 else b.getLsbD 2)) = true ↔
        b ∈ (if smx then [0b011#3, 0b111#3] else [0b101#3, 0b111#3]) := by decide
  rw [← hvalues]
  simp [featureControlAllows]

/-- R80 lines 5 to 9: with the tests before it passed, entry is permitted where IA32_FEATURE_CONTROL allows it. -/
theorem permitted_iff_featureControlAllows {s : State} (hcpl : s.cpl = 0#2) (ha20m : s.a20mMode = false)
    (hsupported : cr0Cr4Supported s.cfg s.cr0 s.cr4 = true) : Permitted s ↔ featureControlAllows s = true := by
  rw [← entryProhibited_false]
  simp [entryProhibited, hcpl, ha20m, hsupported]

/-- Where entry is permitted #GP(0) is the segment test's. -/
theorem segCheck_of_execVmxon_gp {f : VmxonForm} {s : State} (hoff : s.vmx = .off) (hpermitted : Permitted s)
    (h : execVmxon f s = .fault (.gp 0#32)) :
    s.segCheck (operandSegment f) (s.effectiveAddress f) 8 = some (.gp 0#32) := by
  obtain ⟨he, -⟩ | ⟨-, ⟨he, -⟩ | ⟨-, hroot, -⟩ | ⟨-, -, hnot⟩ | ⟨-, -, hread⟩⟩ := execVmxon_fault h
  · cases he
  · cases he
  · rw [hoff] at hroot
    cases hroot
  · exact absurd hpermitted hnot
  · rcases State.memRead_error.1 hread with hsegment | ⟨-, p, -, he⟩
    · exact hsegment
    · cases he

/-- Settles O39: the values that pass are those that permit entry. -/
theorem featureControlValuesThatPass : Obligations.FeatureControlValuesThatPass := by
  intro f s hrecognized hoff hcpl ha20m hsupported passes
  have hpasses : passes ↔ Permitted s :=
    featureControlAllows_iff.symm.trans (permitted_iff_featureControlAllows hcpl ha20m hsupported).symm
  rw [hpasses]
  exact ⟨execVmxon_off_prohibited hrecognized hoff, segCheck_of_execVmxon_gp hoff⟩

/-! ## VMX non-root operation, and VMX root operation above CPL 0 (R109, R110) -/

/-- Settles O13: of the stops only that of VMX non-root operation is the VM exit; the operand's are exceptions. -/
theorem vmExitExactlyInNonRootOperation : Obligations.VmExitExactlyInNonRootOperation := by
  intro f s
  rw [exec_vmxon]
  refine ⟨fun h => ?_, fun ⟨hrecognized, hnonRoot⟩ => execVmxon_nonRoot hrecognized hnonRoot⟩
  obtain ⟨he, -⟩ | ⟨hrecognized, ⟨-, hnonRoot⟩ | ⟨he, -⟩ | ⟨he, -⟩ | ⟨-, -, hread⟩⟩ := execVmxon_fault h
  · cases he
  · exact ⟨hrecognized, hnonRoot⟩
  · cases he
  · cases he
  · rcases State.memRead_error_cases hread with he | he | ⟨c, la, he⟩ <;> cases he

/-- Settles O16: in VMX root operation the privilege level is the one test behind #UD. -/
theorem rootOperationAboveCplZeroFaults : Obligations.RootOperationAboveCplZeroFaults := by
  intro f s hrecognized hroot hcpl
  rw [exec_vmxon, execVmxon_root hrecognized hroot, if_pos (not_not.1 (mt cpl_not_pos.1 hcpl))]

/-! ## What every completion leaves unchanged (R116) -/

/-- The state in all that no completion of VMXON writes, whatever the outcome. -/
theorem execVmxon_next_frame {f : VmxonForm} {s t : State} (h : execVmxon f s = .next t) :
    t.regs = s.regs ∧ t.seg = s.seg ∧ t.cr0 = s.cr0 ∧ t.cr2 = s.cr2 ∧ t.cr4 = s.cr4 ∧ t.eferLma = s.eferLma ∧
      t.featureControl = s.featureControl ∧ t.csL = s.csL ∧ t.csD = s.csD ∧ t.cpl = s.cpl ∧ t.smx = s.smx ∧
      t.a20mMode = s.a20mMode ∧ t.mem = s.mem := by
  obtain ⟨-, rfl | rfl | ⟨addr, rfl⟩⟩ | ⟨-, rfl⟩ := execVmxon_next_cases h
  · simp [afterBadPointer]
  · simp [afterBadRevision]
  · simp [afterEntry]
  · rcases s.vmFail_cases vmxonInRootError f.length with ⟨-, e⟩ | ⟨-, e⟩ <;> simp [e]

/-- A completion that does not enter VMX operation leaves the fields of a success unchanged. -/
theorem execVmxon_next_frame_of_no_entry {f : VmxonForm} {s t : State} (h : execVmxon f s = .next t)
    (hnoEntry : ¬(s.vmx = .off ∧ t.vmx = .root)) :
    t.vmx = s.vmx ∧ t.currentVmcs = s.currentVmcs ∧ t.vmxonPtr = s.vmxonPtr ∧ t.initBlocked = s.initBlocked ∧
      t.a20mBlocked = s.a20mBlocked ∧ t.monitorArmed = s.monitorArmed ∧ t.rtitTraceEn = s.rtitTraceEn := by
  obtain ⟨hoff, rfl | rfl | ⟨addr, rfl⟩⟩ | ⟨-, rfl⟩ := execVmxon_next_cases h
  · simp [afterBadPointer]
  · simp [afterBadRevision]
  · exact absurd ⟨hoff, rfl⟩ hnoEntry
  · rcases s.vmFail_cases vmxonInRootError f.length with ⟨-, e⟩ | ⟨-, e⟩ <;> simp [e]

/-- R105 to R108: the status flags of each completion, with the error field of VMfailValid. -/
theorem execVmxon_next_flags {f : VmxonForm} {s t : State} (h : execVmxon f s = .next t) :
    (s.vmx = .off ∧ t.vmx = .root ∧ t.rflags = writeStatus succeedFlags s.rflags ∧
        t.vmInstructionError = s.vmInstructionError) ∨
      (s.vmx = .off ∧ t.vmx = .off ∧ t.rflags = writeStatus failInvalidFlags s.rflags ∧
        t.vmInstructionError = s.vmInstructionError) ∨
      (s.vmx = .root ∧ s.currentVmcs = noCurrentVmcs ∧ t.rflags = writeStatus failInvalidFlags s.rflags ∧
        t.vmInstructionError = s.vmInstructionError) ∨
      (s.vmx = .root ∧ s.currentVmcs ≠ noCurrentVmcs ∧ t.rflags = writeStatus failValidFlags s.rflags ∧
        t.vmInstructionError = vmxonInRootError) := by
  obtain ⟨hoff, rfl | rfl | ⟨addr, rfl⟩⟩ | ⟨hroot, rfl⟩ := execVmxon_next_cases h
  · exact .inr (.inl ⟨hoff, hoff, rfl, rfl⟩)
  · exact .inr (.inl ⟨hoff, hoff, rfl, rfl⟩)
  · exact .inl ⟨hoff, rfl, rfl, rfl⟩
  · rcases s.vmFail_cases vmxonInRootError f.length with ⟨hnone, e⟩ | ⟨hsome, e⟩ <;> rw [e]
    · exact .inr (.inr (.inl ⟨hroot, hnone, rfl, rfl⟩))
    · exact .inr (.inr (.inr ⟨hroot, hsome, rfl, rfl⟩))

/-- R112: a completion writes the status flags and no other bit of RFLAGS. -/
theorem execVmxon_next_otherFlags {f : VmxonForm} {s t : State} (h : execVmxon f s = .next t) {k : Nat}
    (hk : k ∉ [0, 2, 4, 6, 7, 11]) : t.rflags.getLsbD k = s.rflags.getLsbD k := by
  have hmask : statusMask.getLsbD k = false := by
    by_cases hlt : k < 64
    · have hplaces : ∀ j < 64, j ∉ [0, 2, 4, 6, 7, 11] → statusMask.getLsbD j = false := by decide
      exact hplaces k hlt hk
    · exact BitVec.getLsbD_of_ge _ _ (not_lt.1 hlt)
  obtain ⟨-, -, e, -⟩ | ⟨-, -, e, -⟩ | ⟨-, -, e, -⟩ | ⟨-, -, e, -⟩ := execVmxon_next_flags h <;>
    rw [e, writeStatus_other _ _ _ hmask]

/-- Settles O23: the frame of every completion, of RFLAGS, of the completions without entry, and the error field. -/
theorem completionLeavesTheRestUnchanged : Obligations.CompletionLeavesTheRestUnchanged := by
  intro f s t h
  refine ⟨execVmxon_next_frame h, fun _ => execVmxon_next_otherFlags h, execVmxon_next_frame_of_no_entry h,
    fun hnotValid => ?_⟩
  obtain ⟨-, -, -, e⟩ | ⟨-, -, -, e⟩ | ⟨-, -, -, e⟩ | ⟨hroot, hsome, -, -⟩ := execVmxon_next_flags h
  · exact e
  · exact e
  · exact e
  · exact absurd ⟨hroot, hsome⟩ hnotValid

/-! ## The status flags and the instruction pointer of a completion (R112, R114) -/

/-- Settles O21: `execVmxon_next_flags`, bit by bit. -/
theorem statusFlagsFollowTheOutcome : Obligations.StatusFlagsFollowTheOutcome := by
  intro f s t h
  obtain ⟨hs, ht, e, -⟩ | ⟨hs, ht, e, -⟩ | ⟨hs, hvmcs, e, -⟩ | ⟨hs, hvmcs, e, herror⟩ := execVmxon_next_flags h
  · simp [hs, ht, e]
  · simp [hs, ht, e]
  · rw [noCurrentVmcs] at hvmcs
    simp [hs, hvmcs, e]
  · rw [noCurrentVmcs] at hvmcs
    simp [hs, hvmcs, e, herror, vmxonInRootError]

/-- R114: every completion moves the instruction pointer past the instruction. -/
theorem execVmxon_next_rip {f : VmxonForm} {s t : State} (h : execVmxon f s = .next t) : t.rip = s.nextRip f.length := by
  obtain ⟨-, rfl | rfl | ⟨addr, rfl⟩⟩ | ⟨-, rfl⟩ := execVmxon_next_cases h
  · rfl
  · rfl
  · rfl
  · rcases s.vmFail_cases vmxonInRootError f.length with ⟨-, e⟩ | ⟨-, e⟩ <;> rw [e] <;> rfl

theorem State.nextRip_of_m64 {s : State} (h : s.codeMode = .m64) (len : Nat) :
    (s.nextRip len).toNat = (s.rip.toNat + len) % 2 ^ 64 := by
  simp [State.nextRip, h, wrapIp]

theorem State.nextRip_of_m32 {s : State} (h : s.codeMode = .m32) (len : Nat) :
    (s.nextRip len).toNat = (s.rip.toNat + len) % 2 ^ 32 := by
  simp only [State.nextRip, h, wrapIp, BitVec.toNat_setWidth, BitVec.toNat_add, BitVec.toNat_ofNat]
  omega

theorem State.nextRip_of_m16 {s : State} (h : s.codeMode = .m16) (len : Nat) :
    (s.nextRip len).toNat = (s.rip.toNat + len) % 2 ^ 16 := by
  simp only [State.nextRip, h, wrapIp, BitVec.toNat_setWidth, BitVec.toNat_add, BitVec.toNat_ofNat]
  omega

/-- Settles O26: the next instruction pointer at the width of each mode. -/
theorem instructionPointerAdvancesByTheLength : Obligations.InstructionPointerAdvancesByTheLength := by
  intro f s t h
  rw [execVmxon_next_rip h]
  refine ⟨fun h64 => ?_, fun hnot64 hd => ?_, fun hnot64 hd => ?_⟩
  · exact State.nextRip_of_m64 (State.codeMode_of_is64 h64) _
  · have hmode : s.codeMode = .m32 := by rw [State.codeMode_of_not_is64 hnot64, hd]; rfl
    rw [State.nextRip_of_m32 hmode, Nat.mod_mod]
  · have hmode : s.codeMode = .m16 := by rw [State.codeMode_of_not_is64 hnot64, hd]; rfl
    rw [State.nextRip_of_m16 hmode, Nat.mod_mod]

/-! ## VMX root operation at CPL 0 (R108, R111) -/

/-- R106: VMfailInvalid, field by field. -/
theorem State.done_failInvalidFlags (s : State) (len : Nat) :
    s.done failInvalidFlags len =
      { s with rflags := (s.rflags &&& ~~~0x8D5#64) ||| 0x1#64, rip := s.nextRip len } := by
  rw [State.done, writeStatus_failInvalidFlags]

/-- R107: VMfailValid, field by field. -/
theorem State.vmFailValid_eq (s : State) (error : BitVec 32) (len : Nat) :
    s.vmFailValid error len =
      { s with
        rflags := (s.rflags &&& ~~~0x8D5#64) ||| 0x40#64, rip := s.nextRip len, vmInstructionError := error } := by
  rw [State.vmFailValid, State.done, writeStatus_failValidFlags]

/-- R111: behind #UD, VMX root operation at CPL 0 is a VMfail. -/
theorem execVmxon_root_cpl_zero {f : VmxonForm} {s : State} (h : Recognized f s) (hroot : s.vmx = .root)
    (hcpl : s.cpl = 0#2) : execVmxon f s = .next (s.vmFail vmxonInRootError f.length) := by
  rw [execVmxon_root h hroot, if_neg (cpl_not_pos.2 hcpl)]

/-- After a completion any VMXON with a memory operand is recognized: #UD depends on fields no completion writes. -/
theorem recognized_after_next {f g : VmxonForm} {s t : State} (h : execVmxon f s = .next t)
    (hmemory : ∀ rm, g.operand ≠ .register rm) : Recognized g t := by
  obtain ⟨hrecognized, -⟩ := execVmxon_next h
  obtain ⟨-, -, hcr0, -, hcr4, hlma, -, hcsL, -⟩ := execVmxon_next_frame h
  exact
    { memoryOperand := hmemory
      protection := hcr0 ▸ hrecognized.protection
      vmxe := hcr4 ▸ hrecognized.vmxe
      notVm86 := (execVmxon_next_otherFlags h (by decide)).trans hrecognized.notVm86
      notCompat := fun hlmaT => hcsL ▸ hrecognized.notCompat (hlma ▸ hlmaT) }

/-- R97: entry leaves CPL 0 and no current VMCS. -/
theorem execVmxon_entry {f : VmxonForm} {s t : State} (hoff : s.vmx = .off) (h : execVmxon f s = .next t)
    (hroot : t.vmx = .root) : t.cpl = 0#2 ∧ t.currentVmcs = noCurrentVmcs := by
  obtain ⟨-, ⟨-, hpermitted, v, -, ⟨-, rfl⟩ | ⟨-, -, rfl⟩ | ⟨-, -, rfl⟩⟩ | ⟨hs, -⟩⟩ := execVmxon_next h
  · simp [afterBadPointer, hoff] at hroot
  · simp [afterBadRevision, hoff] at hroot
  · simp [afterEntry, hpermitted.cpl]
  · rw [hoff] at hs
    cases hs

/-- Settles O15: both cases of VMfail; after entry a second VMXON finds no current VMCS. -/
theorem rootOperationCompletesWithVmfail : Obligations.RootOperationCompletesWithVmfail := by
  refine ⟨fun f s hrecognized hroot hcpl => ?_, fun f g s t hoff h hroot hmemory => ?_⟩
  · rw [exec_vmxon, execVmxon_root_cpl_zero hrecognized hroot hcpl]
    rcases s.vmFail_cases vmxonInRootError f.length with ⟨hnone, e⟩ | ⟨hsome, e⟩
    · rw [e, State.done_failInvalidFlags]
      exact (if_pos hnone).symm
    · rw [e, State.vmFailValid_eq]
      exact (if_neg hsome).symm
  · obtain ⟨hcpl, hnone⟩ := execVmxon_entry hoff h hroot
    rw [exec_vmxon, execVmxon_root_cpl_zero (recognized_after_next h hmemory) hroot hcpl, State.vmFail, if_pos hnone,
      State.vmFailInvalid_eq_done, State.done_failInvalidFlags]

/-! ## The pointer and the revision word (R93 to R95) -/

theorem not_usablePointer_iff {c : Config} {p : Nat} :
    ¬usablePointer c p ↔ p % 4096 ≠ 0 ∨ 2 ^ c.physAddrWidth ≤ p ∨ (c.vmxBasic48 = true ∧ 2 ^ 32 ≤ p) := by
  rw [usablePointer, not_and_or, not_and_or, not_lt, Classical.not_imp, not_lt]

/-- The spec's derivation in R93: with IA32_VMX_BASIC[48] = 1 both bounds are one. -/
theorem usablePointer_of_vmxBasic48 {c : Config} (h : c.vmxBasic48 = true) {p : Nat} :
    usablePointer c p ↔ p % 4096 = 0 ∧ p < 2 ^ min 32 c.physAddrWidth := by
  have hmin : 2 ^ min 32 c.physAddrWidth = min (2 ^ 32) (2 ^ c.physAddrWidth) :=
    (pow_right_mono₀ (by decide : 1 ≤ 2)).map_min
  rw [hmin, lt_min_iff, and_comm (a := p < 2 ^ 32)]
  simp [usablePointer, h]

/-- Four bytes are a 32-bit revision word. -/
theorem revisionAt_lt (s : State) (addr : Nat) : revisionAt s addr < 2 ^ 32 := State.physRead_lt _ _ 4

/-- R95: the revision word is rejected for its identifier or its bit 31. -/
theorem revisionRejected_true {c : Config} {rev : BitVec 32} :
    revisionRejected c rev = true ↔ rev.extractLsb' 0 31 ≠ c.vmcsRevisionId ∨ rev.getLsbD 31 = true := by
  simp [revisionRejected]

/-- R95, the spec's own derivation: the one accepted revision word is the identifier, zero-extended. -/
theorem revisionRejected_false_iff_eq {c : Config} {rev : BitVec 32} :
    revisionRejected c rev = false ↔ rev = c.vmcsRevisionId.setWidth 32 := by
  rw [revisionRejected_false, ← BitVec.toNat_inj, BitVec.toNat_setWidth_of_le (by decide)]

/-- The pointer check, of the pointer read. -/
theorem pointerRejected_pointerAt {s : State} {pas : List Nat} (h : pas.length = 8) :
    pointerRejected s.cfg (BitVec.ofNat 64 (pointerAt s pas)) = false ↔ usablePointer s.cfg (pointerAt s pas) := by
  rw [pointerRejected_false, BitVec.toNat_ofNat, Nat.mod_eq_of_lt (pointerAt_lt s h)]

/-- The revision check, of the word read. -/
theorem revisionRejected_revisionAt {s : State} {addr : Nat} :
    revisionRejected s.cfg (BitVec.ofNat 32 (revisionAt s addr)) = false ↔
      revisionAt s addr = s.cfg.vmcsRevisionId.toNat := by
  rw [revisionRejected_false, BitVec.toNat_ofNat, Nat.mod_eq_of_lt (revisionAt_lt s addr)]

section Operand

variable {f : VmxonForm} {s : State} {pas : List Nat} (hrecognized : Recognized f s) (hoff : s.vmx = .off)
  (hpermitted : Permitted s) (hoperand : OperandAt f s pas)

include hrecognized hoff hpermitted hoperand

/-- R93: the pointer check fails. -/
theorem execVmxon_of_not_usable (hpointer : ¬usablePointer s.cfg (pointerAt s pas)) :
    execVmxon f s = .next (afterBadPointer f s) := by
  rw [execVmxon_off hrecognized hoff hpermitted, tryEntry_of_operandAt hoperand, if_pos]
  rwa [← Bool.not_eq_false, pointerRejected_pointerAt hoperand.count]

/-- R95: the revision check fails. -/
theorem execVmxon_of_other_revision (hpointer : usablePointer s.cfg (pointerAt s pas))
    (hrevision : revisionAt s (pointerAt s pas) ≠ s.cfg.vmcsRevisionId.toNat) :
    execVmxon f s = .next (afterBadRevision f s) := by
  rw [execVmxon_off hrecognized hoff hpermitted, tryEntry_of_operandAt hoperand,
    (pointerRejected_pointerAt hoperand.count).2 hpointer, if_neg Bool.false_ne_true, if_pos]
  rwa [← Bool.not_eq_false, revisionRejected_revisionAt]

/-- R97 to R105: both checks pass. -/
theorem execVmxon_of_usable (hpointer : usablePointer s.cfg (pointerAt s pas))
    (hrevision : revisionAt s (pointerAt s pas) = s.cfg.vmcsRevisionId.toNat) :
    execVmxon f s = .next (afterEntry f s (BitVec.ofNat 64 (pointerAt s pas))) := by
  rw [execVmxon_off hrecognized hoff hpermitted, tryEntry_of_operandAt hoperand,
    (pointerRejected_pointerAt hoperand.count).2 hpointer, if_neg Bool.false_ne_true,
    revisionRejected_revisionAt.2 hrevision, if_neg Bool.false_ne_true]

/-- With a usable pointer the revision word decides whether VMXON enters VMX operation. -/
theorem execVmxon_enters_iff (hpointer : usablePointer s.cfg (pointerAt s pas)) :
    (∃ t, execVmxon f s = .next t ∧ t.vmx = .root) ↔
      revisionAt s (pointerAt s pas) = s.cfg.vmcsRevisionId.toNat := by
  refine ⟨fun ⟨t, h, hroot⟩ => ?_, fun hrevision =>
    ⟨_, execVmxon_of_usable hrecognized hoff hpermitted hoperand hpointer hrevision, rfl⟩⟩
  by_contra hother
  rw [execVmxon_of_other_revision hrecognized hoff hpermitted hoperand hpointer hother] at h
  cases h
  simp [afterBadRevision, hoff] at hroot

end Operand

theorem afterBadPointer_eq (f : VmxonForm) (s : State) :
    afterBadPointer f s =
      { s with rflags := (s.rflags &&& ~~~0x8D5#64) ||| 0x1#64, rip := s.nextRip f.length, draws := s.draws + 8 } := by
  rw [afterBadPointer, State.vmFailInvalid_eq_done, State.done_failInvalidFlags]
  rfl

theorem afterBadRevision_eq (f : VmxonForm) (s : State) :
    afterBadRevision f s =
      { s with rflags := (s.rflags &&& ~~~0x8D5#64) ||| 0x1#64, rip := s.nextRip f.length, draws := s.draws + 12 } := by
  rw [afterBadRevision, State.vmFailInvalid_eq_done, State.done_failInvalidFlags]
  rfl

/-- Settles O17: `rejected` is the negation of `usablePointer`. -/
theorem rejectedPointerCompletesWithVmfailInvalid : Obligations.RejectedPointerCompletesWithVmfailInvalid := by
  intro f s pas hrecognized hoff hpermitted hoperand rejected
  have hrejected : rejected ↔ ¬usablePointer s.cfg (pointerAt s pas) := not_usablePointer_iff.symm
  rw [hrejected, not_not]
  refine ⟨fun hpointer => ⟨s.draws + 8, ?_⟩, fun hpointer => ?_, fun h48 => usablePointer_of_vmxBasic48 h48⟩
  · rw [exec_vmxon, execVmxon_of_not_usable hrecognized hoff hpermitted hoperand hpointer, afterBadPointer_eq]
  · exact execVmxon_enters_iff hrecognized hoff hpermitted hoperand hpointer

/-- Settles O18: the two causes are those of `revisionRejected`. -/
theorem rejectedRevisionCompletesWithVmfailInvalid : Obligations.RejectedRevisionCompletesWithVmfailInvalid := by
  refine ⟨fun f s pas rev hrecognized hoff hpermitted hoperand hpointer hrev hcause => ⟨s.draws + 12, ?_⟩,
    fun rev c => ?_⟩
  · have hother : revisionAt s (pointerAt s pas) ≠ s.cfg.vmcsRevisionId.toNat := by
      rw [← hrev, ne_eq, ← revisionRejected_false, Bool.not_eq_false]
      exact revisionRejected_true.2 hcause
    rw [exec_vmxon, execVmxon_of_other_revision hrecognized hoff hpermitted hoperand hpointer hother,
      afterBadRevision_eq]
  · rw [← revisionRejected_true, Bool.not_eq_true, revisionRejected_false_iff_eq]

/-! ## Entry (R97 to R105) -/

/-- R97 to R105: the state after a success from a state outside A20M mode, field by field. -/
theorem afterEntry_eq (f : VmxonForm) {s : State} (ha20m : s.a20mMode = false) (addr : Word64) :
    afterEntry f s addr =
      { s with
        currentVmcs := 0xFFFFFFFFFFFFFFFF#64, vmx := .root, vmxonPtr := addr, initBlocked := true, a20mMode := false
        a20mBlocked := true, monitorArmed := false
        rtitTraceEn :=
          if s.cfg.ptSupported = true ∧ s.cfg.ptAllowedInVmx = false then false else s.rtitTraceEn
        rflags := s.rflags &&& ~~~0x8D5#64, rip := s.nextRip f.length, draws := s.draws + 12 } := by
  rw [afterEntry, State.vmSucceed, State.done, State.enterVmx_nextRip, State.drew_nextRip, State.drew_nextRip]
  simp [State.enterVmx, State.drew, ha20m, noCurrentVmcs]

/-- Settles O19: both checks pass, and `afterEntry_eq` lists the effects. -/
theorem readyEntryCompletesWithVmsucceed : Obligations.ReadyEntryCompletesWithVmsucceed := by
  intro f s addr hready
  obtain ⟨pas, hoperand, haddr⟩ := hready.operand
  have hpointer : usablePointer s.cfg (pointerAt s pas) := haddr ▸ hready.pointer
  have hrevision : revisionAt s (pointerAt s pas) = s.cfg.vmcsRevisionId.toNat := haddr ▸ hready.revision
  refine ⟨s.draws + 12, ?_⟩
  rw [exec_vmxon, execVmxon_of_usable hready.recognized hready.off hready.permitted hoperand hpointer hrevision, haddr,
    BitVec.ofNat_toNat, BitVec.setWidth_eq, afterEntry_eq f hready.permitted.notA20m]

/-! ## The old status flags are not read (R112) -/

/-- The state with another value of RFLAGS. -/
def State.withRflags (s : State) (r : Word64) : State := { s with rflags := r }

section Rflags

variable {f : VmxonForm} {s : State} {r : Word64} (hr : r &&& ~~~0x8D5#64 = s.rflags &&& ~~~0x8D5#64)

include hr

/-- RFLAGS.VM is no status flag. -/
theorem recognized_withRflags : Recognized f (s.withRflags r) ↔ Recognized f s := by
  have hvm : r.getLsbD 17 = s.rflags.getLsbD 17 := by
    simpa using congrArg (fun v : Word64 => v.getLsbD 17) hr
  exact ⟨fun ⟨hop, hpe, hvmxe, hvm86, hcompat⟩ => ⟨hop, hpe, hvmxe, hvm ▸ hvm86, hcompat⟩,
    fun ⟨hop, hpe, hvmxe, hvm86, hcompat⟩ => ⟨hop, hpe, hvmxe, hvm.trans hvm86, hcompat⟩⟩

/-- The flags a completion writes take the place of the old ones. -/
theorem State.done_withRflags (flags : StatusFlags) (len : Nat) : (s.withRflags r).done flags len = s.done flags len := by
  have hwrite : writeStatus flags r = writeStatus flags s.rflags := by
    rw [writeStatus, writeStatus, statusMask, hr]
  rw [State.done, State.done, ← hwrite]
  rfl

theorem State.memRead_withRflags (seg : SegReg) (ea : Word64) (n : Nat) :
    (s.withRflags r).memRead seg ea n = s.memRead seg ea n := by
  have hview : (s.withRflags r).givenView = s.givenView := by
    rw [State.givenView, State.givenView, statusMask, ← hr]
    rfl
  have hsegment : (s.withRflags r).segCheck seg ea n = s.segCheck seg ea n :=
    State.segCheck_congr (s := s.withRflags r) (t := s) rfl rfl hview rfl seg ea n
  have htranslate : ∀ la, (s.withRflags r).translate la .read = s.translate la .read := fun la =>
    State.translate_congr (s := s.withRflags r) (t := s) rfl rfl hview la .read
  exact State.memRead_congr hsegment rfl htranslate rfl fun _ _ => rfl

theorem State.vmFail_withRflags (error : BitVec 32) (len : Nat) :
    (s.withRflags r).vmFail error len = s.vmFail error len := by
  unfold State.vmFail State.vmFailValid State.vmFailInvalid
  rw [State.done_withRflags hr, State.done_withRflags hr]
  rfl

theorem tryEntry_withRflags : tryEntry f (s.withRflags r) = tryEntry f s := by
  have hread := State.memRead_withRflags hr (operandSegment f) (s.effectiveAddress f) 8
  cases hm : s.memRead (operandSegment f) (s.effectiveAddress f) 8 with
  | error e => rw [tryEntry_error hm, tryEntry_error (hread.trans hm)]
  | ok v =>
    have hpointer : afterBadPointer f (s.withRflags r) = afterBadPointer f s :=
      State.done_withRflags (s := s.drew 8) hr failInvalidFlags f.length
    have hrevision : afterBadRevision f (s.withRflags r) = afterBadRevision f s :=
      State.done_withRflags (s := (s.drew 8).drew 4) hr failInvalidFlags f.length
    have hentry : ∀ addr, afterEntry f (s.withRflags r) addr = afterEntry f s addr := fun addr =>
      State.done_withRflags (s := ((s.drew 8).drew 4).enterVmx addr) hr succeedFlags f.length
    have hword : ∀ addr, ((s.withRflags r).drew 8).physRead addr 4 = (s.drew 8).physRead addr 4 := fun addr =>
      congrArg leNat (State.readBytes_congr (fun _ _ => rfl) _ _)
    rw [tryEntry_ok hm, tryEntry_ok (hread.trans hm), hpointer, hrevision, hentry, hword]
    rfl

/-- No test and no effect of VMXON depends on the old status flags. -/
theorem execVmxon_withRflags : execVmxon f (s.withRflags r) = execVmxon f s := by
  have hrecognized := recognized_withRflags (f := f) hr
  by_cases hrec : Recognized f s
  · cases hv : s.vmx with
    | off =>
      have hpermitted : Permitted (s.withRflags r) ↔ Permitted s := by
        rw [← entryProhibited_false, ← entryProhibited_false]
        rfl
      by_cases hp : Permitted s
      · rw [execVmxon_off hrec hv hp, execVmxon_off (hrecognized.2 hrec) hv (hpermitted.2 hp), tryEntry_withRflags hr]
      · rw [execVmxon_off_prohibited hrec hv hp,
          execVmxon_off_prohibited (hrecognized.2 hrec) hv (mt hpermitted.1 hp)]
    | root =>
      rw [execVmxon_root hrec hv, execVmxon_root (hrecognized.2 hrec) hv, State.vmFail_withRflags hr]
      rfl
    | nonRoot => rw [execVmxon_nonRoot hrec hv, execVmxon_nonRoot (hrecognized.2 hrec) hv]
  · rw [execVmxon_of_not_recognized hrec, execVmxon_of_not_recognized (mt hrecognized.1 hrec)]

end Rflags

/-- Settles O22: `State.withRflags` is the update the statement writes out. -/
theorem oldStatusFlagsNeverMatter : Obligations.OldStatusFlagsNeverMatter
  | .vmxon _, _, _, hr => execVmxon_withRflags hr

end Sys2Proof.Machine

/-! PROOFS. The exception statements (spec/60_exceptions.md R120 to R136): which stop each state raises, with its vector
and error code, and the change of VMX mode a step makes. -/

namespace Sys2Proof.Machine

/-! ## The causes of each stop -/

/-- `execVmxon_fault` is exact: each of its causes raises the stop. -/
theorem execVmxon_fault_iff {f : VmxonForm} {s : State} {e : Fault} :
    execVmxon f s = .fault e ↔
      (e = .ud ∧ ¬Recognized f s) ∨
        (Recognized f s ∧
          ((e = .vmExit ∧ s.vmx = .nonRoot) ∨
            (e = .gp 0#32 ∧ s.vmx = .root ∧ s.cpl ≠ 0#2) ∨
            (e = .gp 0#32 ∧ s.vmx = .off ∧ ¬Permitted s) ∨
            (s.vmx = .off ∧ Permitted s ∧ s.memRead (operandSegment f) (s.effectiveAddress f) 8 = .error e))) := by
  refine ⟨execVmxon_fault, ?_⟩
  rintro (⟨rfl, hnot⟩ |
    ⟨hr, ⟨rfl, hnonRoot⟩ | ⟨rfl, hroot, hcpl⟩ | ⟨rfl, hoff, hnot⟩ | ⟨hoff, hpermitted, hread⟩⟩)
  · exact execVmxon_of_not_recognized hnot
  · exact execVmxon_nonRoot hr hnonRoot
  · exact rootOperationAboveCplZeroFaults f s hr hroot hcpl
  · exact execVmxon_off_prohibited hr hoff hnot
  · rw [execVmxon_off hr hoff hpermitted, tryEntry_error hread]

section MemRead

variable {s : State} {r : SegReg} {ea : Word64} {n : Nat}

/-- A read of the operand never raises #UD. -/
theorem State.memRead_ne_ud : s.memRead r ea n ≠ .error .ud := by
  intro h
  rcases State.memRead_error_cases h with e | e | ⟨c, la, e⟩ <;> cases e

/-- #GP of a read is the segment test's. -/
theorem State.memRead_error_gp {c : BitVec 32} :
    s.memRead r ea n = .error (.gp c) ↔ s.segCheck r ea n = some (.gp c) := by
  simp [State.memRead_error]

/-- #SS of a read is the segment test's. -/
theorem State.memRead_error_ss {c : BitVec 32} :
    s.memRead r ea n = .error (.ss c) ↔ s.segCheck r ea n = some (.ss c) := by
  simp [State.memRead_error]

/-- #PF of a read is the translation's, behind the segment test. -/
theorem State.memRead_error_pf {c : BitVec 32} {la : Word64} :
    s.memRead r ea n = .error (.pf c la) ↔
      s.segCheck r ea n = none ∧ s.translateAll .read (s.linearBytes r ea n) = .error ⟨c, la⟩ := by
  rw [State.memRead_error]
  constructor
  · rintro (hsegment | ⟨hsegment, ⟨c', la'⟩, htranslate, e⟩)
    · have e := State.segCheck_some hsegment
      cases r <;> cases e
    · cases e
      exact ⟨hsegment, htranslate⟩
  · rintro ⟨hsegment, htranslate⟩
    exact .inr ⟨hsegment, _, htranslate, rfl⟩

end MemRead

/-! ## #UD (R121) -/

/-- R81 to R85: the five causes of #UD. -/
theorem not_recognized_iff {f : VmxonForm} {s : State} :
    ¬Recognized f s ↔
      (∃ rm, f.operand = .register rm) ∨ s.cr0.getLsbD 0 = false ∨ s.cr4.getLsbD 13 = false ∨
        s.rflags.getLsbD 17 = true ∨ (s.eferLma = true ∧ s.csL = false) := by
  rw [← invalidOpcode_false, Bool.not_eq_false, invalidOpcode]
  simp only [Bool.or_eq_true, Bool.and_eq_true, Bool.not_eq_true', isRegister_iff, or_assoc]

/-- Settles O9: no other cause of a stop raises #UD, the read of the operand neither. -/
theorem invalidOpcodeExactlyForTheFiveCauses : Obligations.InvalidOpcodeExactlyForTheFiveCauses := by
  intro f s
  rw [exec_vmxon, execVmxon_fault_iff, ← not_recognized_iff]
  simp [State.memRead_ne_ud]

/-! ## #GP(0) (R122) -/

/-- A privilege level other than 0 is above 0. -/
theorem cpl_ne_zero_iff {c : BitVec 2} : c ≠ 0#2 ↔ 0 < c.toNat := by revert c; decide

/-- R86 to R91: the causes of #GP(0) outside VMX operation before the operand is read. -/
theorem not_permitted_iff {s : State} :
    ¬Permitted s ↔
      0 < s.cpl.toNat ∨ s.a20mMode = true ∨ cr0Cr4Supported s.cfg s.cr0 s.cr4 = false ∨
        s.featureControl.getLsbD 0 = false ∨ (s.smx = true ∧ s.featureControl.getLsbD 1 = false) ∨
        (s.smx = false ∧ s.featureControl.getLsbD 2 = false) := by
  have hallows : featureControlAllows s = false ↔
      s.featureControl.getLsbD 0 = false ∨ (s.smx = true ∧ s.featureControl.getLsbD 1 = false) ∨
        (s.smx = false ∧ s.featureControl.getLsbD 2 = false) := by
    cases hsmx : s.smx <;> simp [featureControlAllows, hsmx, or_iff_not_imp_left]
  have hcpl : 0#2 < s.cpl ↔ 0 < s.cpl.toNat := by rw [← cpl_ne_zero_iff, ne_eq, ← cpl_not_pos, not_not]
  rw [← entryProhibited_false, Bool.not_eq_false, entryProhibited]
  simp only [Bool.or_eq_true, Bool.not_eq_true', decide_eq_true_eq, or_assoc, hallows, hcpl]

/-- The causes of #GP(0), as those of the three places it is raised at. -/
theorem execVmxon_gp_iff {f : VmxonForm} {s : State} :
    execVmxon f s = .fault (.gp 0#32) ↔
      Recognized f s ∧
        ((s.vmx = .root ∧ s.cpl ≠ 0#2) ∨
          (s.vmx = .off ∧
            (¬Permitted s ∨ s.segCheck (operandSegment f) (s.effectiveAddress f) 8 = some (.gp 0#32)))) := by
  rw [execVmxon_fault_iff, State.memRead_error_gp]
  by_cases hpermitted : Permitted s <;> simp [hpermitted]

/-- Settles O10: `not_permitted_iff` lists the causes before the read. -/
theorem generalProtectionExactlyForTheTableCauses : Obligations.GeneralProtectionExactlyForTheTableCauses := by
  intro f s
  rw [exec_vmxon]
  refine ⟨fun c h => ?_, ?_⟩
  · simpa using execVmxon_fault_cases h
  · rw [execVmxon_gp_iff, not_permitted_iff, cpl_ne_zero_iff]
    simp only [or_assoc]

/-! ## #SS(0) (R123) -/

/-- In 64-bit mode the segment test answers `e` exactly where a byte is non-canonical and `e` is the segment's fault. -/
theorem State.segCheck_eq_some_of_is64 {s : State} (hmode : s.is64 = true) {r : SegReg} {ea : Word64} {n : Nat}
    {e : Fault} :
    s.segCheck r ea n = some e ↔
      segmentFault r = e ∧
        ∃ k < n, canonical s.cfg.linearAddrWidth (s.base64 r + (ea + BitVec.ofNat 64 k)) = false := by
  have hnone := State.segCheck_eq_none_of_is64 hmode (r := r) (ea := ea) (n := n)
  have hbad : s.segCheck r ea n ≠ none ↔
      ∃ k < n, canonical s.cfg.linearAddrWidth (s.base64 r + (ea + BitVec.ofNat 64 k)) = false := by
    rw [ne_eq, hnone]
    simp
  rw [← hbad]
  rcases s.segCheck_none_or_segmentFault r ea n with h | h <;> simp [h]

/-- R44, R45: the segment test gives #SS(0) through SS only, by the causes of each mode. -/
theorem State.segCheck_eq_ss {s : State} {r : SegReg} {ea : Word64} {n : Nat} (hn : 0 < n) :
    s.segCheck r ea n = some (.ss 0#32) ↔
      r = .ss ∧
        ((s.is64 = false ∧
            ((∃ k < n, s.insideLimit .ss (ea.toNat + k) = false) ∨ s.seg.ss.unusable = true)) ∨
          (s.is64 = true ∧ ∃ k < n, canonical s.cfg.linearAddrWidth (ea + BitVec.ofNat 64 k) = false)) := by
  cases hmode : s.is64 with
  | false =>
    obtain ⟨hss, -⟩ := segmentTestOutside64BitMode s r ea n hmode hn
    rw [hss]
    refine and_congr_right fun e => ?_
    subst e
    simp [State.segment]
  | true =>
    rw [State.segCheck_eq_some_of_is64 hmode, segmentFault_eq_ss]
    refine and_congr_right fun e => ?_
    subst e
    simp [State.base64]

/-- The causes of #SS(0): the segment test of the operand read. -/
theorem execVmxon_ss_iff {f : VmxonForm} {s : State} :
    execVmxon f s = .fault (.ss 0#32) ↔
      Recognized f s ∧ s.vmx = .off ∧ Permitted s ∧
        s.segCheck (operandSegment f) (s.effectiveAddress f) 8 = some (.ss 0#32) := by
  rw [execVmxon_fault_iff, State.memRead_error_ss]
  simp

/-- Settles O11: #SS(0) is the segment test's, and `State.segCheck_eq_ss` gives its causes. -/
theorem stackFaultExactlyThroughSs : Obligations.StackFaultExactlyThroughSs := by
  intro f s
  rw [exec_vmxon]
  refine ⟨fun c h => ?_, ?_, fun hlast offset => ?_⟩
  · simpa using execVmxon_fault_cases h
  · rw [execVmxon_ss_iff, State.segCheck_eq_ss (by decide)]
  · change s.insideLimit .ss offset = false ↔ (s.segment .ss).limit.toNat < offset
    simp [State.insideLimit_lastOffset hlast]

/-! ## #PF (R124, R129) -/

theorem State.mem_linearBytes {s : State} {r : SegReg} {ea : Word64} {n : Nat} {la : Word64} :
    la ∈ s.linearBytes r ea n ↔ ∃ k < n, la = s.linearAddr r (ea + BitVec.ofNat 64 k) := by
  simp [State.linearBytes, eq_comm]

theorem State.forall_mem_linearBytes {s : State} {r : SegReg} {ea : Word64} {n : Nat} {P : Word64 → Prop} :
    (∀ la ∈ s.linearBytes r ea n, P la) ↔ ∀ k < n, P (s.linearAddr r (ea + BitVec.ofNat 64 k)) := by
  simp [State.linearBytes]

/-- The causes of #PF: the translation of the operand's bytes, behind the segment test. -/
theorem execVmxon_pf_iff {f : VmxonForm} {s : State} {c : BitVec 32} {la : Word64} :
    execVmxon f s = .fault (.pf c la) ↔
      Recognized f s ∧ s.vmx = .off ∧ Permitted s ∧
        s.segCheck (operandSegment f) (s.effectiveAddress f) 8 = none ∧
        s.translateAll .read (s.linearBytes (operandSegment f) (s.effectiveAddress f) 8) = .error ⟨c, la⟩ := by
  rw [execVmxon_fault_iff, State.memRead_error_pf]
  simp

/-- Settles O12: `State.translateAll_error` says that the lowest linear address with a fault is reported. -/
theorem pageFaultExactlyAtTheLowestUntranslatedByte : Obligations.PageFaultExactlyAtTheLowestUntranslatedByte := by
  intro f s c la
  rw [exec_vmxon, execVmxon_pf_iff, State.translateAll_error, State.mem_linearBytes, State.forall_mem_linearBytes]
  rfl

/-! ## VMX mode (R134, R136) -/

/-- Every completion is at CPL 0 outside VMX non-root operation, and changes the VMX mode at entry only. -/
theorem execVmxon_next_mode {f : VmxonForm} {s t : State} (h : execVmxon f s = .next t) :
    s.vmx ≠ .nonRoot ∧ s.cpl = 0#2 ∧
      (t.vmx = s.vmx ∨ (s.vmx = .off ∧ ∃ addr, t = afterEntry f s addr)) := by
  obtain ⟨-, ⟨hoff, hpermitted, v, -, ⟨-, rfl⟩ | ⟨-, -, rfl⟩ | ⟨-, -, rfl⟩⟩ | ⟨hroot, hcpl, rfl⟩⟩ := execVmxon_next h
  · exact ⟨by simp [hoff], hpermitted.cpl, .inl rfl⟩
  · exact ⟨by simp [hoff], hpermitted.cpl, .inl rfl⟩
  · exact ⟨by simp [hoff], hpermitted.cpl, .inr ⟨hoff, _, rfl⟩⟩
  · refine ⟨by simp [hroot], hcpl, .inl ?_⟩
    rcases s.vmFail_cases vmxonInRootError f.length with ⟨-, e⟩ | ⟨-, e⟩ <;> rw [e] <;> rfl

/-- Settles O28: the mode changes at entry only, whose effects `afterEntry` lists; no completion writes CPL. -/
theorem stepMovesFromOffToRootOnly : Obligations.StepMovesFromOffToRootOnly := by
  intro s t h
  obtain ⟨⟨f⟩, -, -, hexec⟩ := step_next h
  rw [exec_vmxon] at hexec
  obtain ⟨-, -, -, -, -, -, -, -, -, hcplKept, -⟩ := execVmxon_next_frame hexec
  obtain ⟨hnotNonRoot, hcpl, hmode⟩ := execVmxon_next_mode hexec
  have hentry : t.vmx = s.vmx ∨ (s.vmx = .off ∧ t.vmx = .root) := by
    rcases hmode with hkept | ⟨hoff, addr, rfl⟩
    · exact .inl hkept
    · exact .inr ⟨hoff, rfl⟩
  refine ⟨hentry, hnotNonRoot, hcpl, hcplKept.trans hcpl, fun hchange => ?_⟩
  obtain ⟨-, addr, rfl⟩ := hmode.resolve_left hchange
  exact ⟨rfl, rfl, rfl⟩

/-! ## Vectors and error codes (R120) -/

/-- Settles O46: `execVmxon_fault_cases` lists the stops, and each has its row of the table. -/
theorem raisedExceptionsHaveTheTableVectors : Obligations.RaisedExceptionsHaveTheTableVectors := by
  rintro ⟨f⟩ s e h
  rw [exec_vmxon] at h
  rcases execVmxon_fault_cases h with rfl | rfl | rfl | ⟨c, la, rfl⟩ | rfl
  · exact .inl ⟨rfl, rfl, rfl⟩
  · exact .inr (.inl ⟨rfl, rfl, rfl⟩)
  · exact .inr (.inr (.inl ⟨rfl, rfl, rfl⟩))
  · exact .inr (.inr (.inr (.inl ⟨c, la, rfl, rfl, rfl⟩)))
  · exact .inr (.inr (.inr (.inr ⟨rfl, rfl, rfl⟩)))

end Sys2Proof.Machine

/-! PROOFS. The statements on hazards and runs (spec/70_reset_and_hazards.md R152, R159): when VMXON enters VMX
operation, where a run ends, and the invariant at its end. -/

namespace Sys2Proof.Machine

/-! ## When VMXON enters VMX operation (R152) -/

/-- R152 item 11: the operand is read where it passes the segment test and is translated, and what is read is the
pointer. -/
theorem memRead_ok_iff_operandAt {f : VmxonForm} {s : State} {v : Nat} :
    s.memRead (operandSegment f) (s.effectiveAddress f) 8 = .ok v ↔ ∃ pas, OperandAt f s pas ∧ pointerAt s pas = v := by
  rw [State.memRead_ok]
  constructor
  · rintro ⟨hsegment, pas, htranslate, rfl⟩
    exact ⟨pas, operandAt_of_translateAll hsegment htranslate, rfl⟩
  · rintro ⟨pas, hoperand, rfl⟩
    exact ⟨hoperand.segment, pas, hoperand.translateAll, rfl⟩

/-- Of the completions outside VMX operation only a success is in VMX root operation, and its tests are R152's. -/
theorem entryReady_of_execVmxon {f : VmxonForm} {s t : State} (hoff : s.vmx = .off) (h : execVmxon f s = .next t)
    (hroot : t.vmx = .root) : ∃ addr, EntryReady f s addr := by
  obtain ⟨hrecognized, ⟨-, hpermitted, v, hread, hpointer | hrevision | hentry⟩ | ⟨hs, -⟩⟩ := execVmxon_next h
  · obtain ⟨-, rfl⟩ := hpointer
    simp [afterBadPointer, hoff] at hroot
  · obtain ⟨-, -, rfl⟩ := hrevision
    simp [afterBadRevision, hoff] at hroot
  · obtain ⟨husable, haccepted, -⟩ := hentry
    obtain ⟨pas, hoperand, rfl⟩ := memRead_ok_iff_operandAt.1 hread
    rw [BitVec.toNat_ofNat, Nat.mod_eq_of_lt (pointerAt_lt s hoperand.count)] at husable haccepted
    exact ⟨pointerAt s pas, hrecognized, hoff, hpermitted, ⟨pas, hoperand, rfl⟩, husable, haccepted⟩
  · rw [hoff] at hs
    cases hs

/-- Settles O20: a completion in VMX root operation passed every test, and where all pass VMXON succeeds. -/
theorem entryHappensExactlyWhenReady : Obligations.EntryHappensExactlyWhenReady := by
  intro f s hoff
  rw [exec_vmxon]
  constructor
  · rintro ⟨t, h, hroot⟩
    exact entryReady_of_execVmxon hoff h hroot
  · rintro ⟨addr, hready⟩
    obtain ⟨pas, hoperand, rfl⟩ := hready.operand
    exact (execVmxon_enters_iff hready.recognized hoff hready.permitted hoperand hready.pointer).2 hready.revision

/-! ## Executions with which a run goes on (R159) -/

/-- The run goes on behind this execution: it is `Done` and does not reach the end address. -/
def Continues (endAddress : Word64) (s t : State) : Prop := step s = .next t ∧ t.rip ≠ endAddress

/-- `k` executions with which the run goes on lead from `s` to `u`. -/
def Leads (endAddress : Word64) : Nat → State → State → Prop
  | 0, s, u => s = u
  | k + 1, s, u => ∃ t, Continues endAddress s t ∧ Leads endAddress k t u

theorem Continues.unique {a : Word64} {s t u : State} (ht : Continues a s t) (hu : Continues a s u) : t = u := by
  obtain ⟨ht, -⟩ := ht
  obtain ⟨hu, -⟩ := hu
  cases ht.symm.trans hu
  rfl

/-- One state in front of a sequence of states. -/
def prepend (s : State) (at_ : Nat → State) : Nat → State
  | 0 => s
  | i + 1 => at_ i

/-- The executions of `Leads`, written as the sequence of the states they go through. -/
theorem leads_iff_sequence {a : Word64} {k : Nat} {s u : State} :
    Leads a k s u ↔
      ∃ at_ : Nat → State, at_ 0 = s ∧ (∀ i < k, Continues a (at_ i) (at_ (i + 1))) ∧ at_ k = u := by
  induction k generalizing s with
  | zero =>
    constructor
    · rintro rfl
      exact ⟨fun _ => s, rfl, by simp, rfl⟩
    · rintro ⟨at_, rfl, -, rfl⟩
      rfl
  | succ k ih =>
    constructor
    · rintro ⟨t, hfirst, hrest⟩
      obtain ⟨at_, rfl, hgo, rfl⟩ := ih.1 hrest
      refine ⟨prepend s at_, rfl, fun i hi => ?_, rfl⟩
      cases i with
      | zero => exact hfirst
      | succ i => exact hgo i (Nat.lt_of_succ_lt_succ hi)
    · rintro ⟨at_, rfl, hgo, rfl⟩
      exact ⟨at_ 1, hgo 0 k.succ_pos,
        ih.2 ⟨fun i => at_ (i + 1), rfl, fun i hi => hgo (i + 1) (Nat.succ_lt_succ hi), rfl⟩⟩

/-- The same for fewer than `n` executions, with a condition that speaks of neither the sequence nor its length. -/
theorem exists_lt_leads_iff_sequence {a : Word64} {n : Nat} {s u : State} {P : Prop} :
    (∃ k < n, Leads a k s u ∧ P) ↔
      ∃ (k : Nat) (at_ : Nat → State), k < n ∧ at_ 0 = s ∧
        (∀ i < k, step (at_ i) = .next (at_ (i + 1)) ∧ (at_ (i + 1)).rip ≠ a) ∧ at_ k = u ∧ P := by
  simp only [leads_iff_sequence, Continues, ← exists_and_left, ← exists_and_right, and_assoc]

/-- The sequence of `leads_iff_sequence` with one more execution behind it, which may reach the end address. -/
theorem leads_step_iff_sequence {a : Word64} {k : Nat} {s t : State} :
    (∃ u, Leads a k s u ∧ step u = .next t) ↔
      ∃ at_ : Nat → State, at_ 0 = s ∧ (∀ i ≤ k, step (at_ i) = .next (at_ (i + 1))) ∧
        (∀ i < k, (at_ (i + 1)).rip ≠ a) ∧ at_ (k + 1) = t := by
  constructor
  · rintro ⟨u, hleads, hlast⟩
    obtain ⟨at_, rfl, hgo, rfl⟩ := leads_iff_sequence.1 hleads
    have hkept : ∀ i ≤ k, Function.update at_ (k + 1) t i = at_ i :=
      fun i hi => Function.update_of_ne (by omega) t at_
    refine ⟨Function.update at_ (k + 1) t, hkept 0 k.zero_le, fun i hi => ?_, fun i hi => ?_,
      Function.update_self (k + 1) t at_⟩
    · rw [hkept i hi]
      rcases hi.lt_or_eq with hlt | rfl
      · rw [hkept (i + 1) hlt]
        exact (hgo i hlt).1
      · rw [Function.update_self]
        exact hlast
    · rw [hkept (i + 1) hi]
      exact (hgo i hi).2
  · rintro ⟨at_, rfl, hsteps, hne, rfl⟩
    exact ⟨at_ k, leads_iff_sequence.2 ⟨at_, rfl, fun i hi => ⟨hsteps i hi.le, hne i hi⟩, rfl⟩, hsteps k le_rfl⟩

/-! ## Where a run ends (R159) -/

/-- The first execution of a run: the run goes on behind it, or ends with it. -/
theorem run_succ_cases (a : Word64) (s : State) :
    (∃ t, Continues a s t ∧ ∀ n, run a (n + 1) s = run a n t) ∨
      ((∀ t, ¬Continues a s t) ∧ ∀ n, run a (n + 1) s = run a 1 s) := by
  cases hstep : step s with
  | next t =>
    by_cases hend : t.rip = a
    · refine .inr ⟨fun u ⟨hu, hne⟩ => ?_, fun n => by rw [run_end hstep hend, run_end hstep hend]⟩
      cases hstep.symm.trans hu
      exact hne hend
    · exact .inl ⟨t, ⟨hstep, hend⟩, run_continue hstep hend⟩
  | fault e => exact .inr ⟨by simp [Continues, hstep], fun n => by rw [run_fault hstep, run_fault hstep]⟩
  | refused r => exact .inr ⟨by simp [Continues, hstep], fun n => by rw [run_refused hstep, run_refused hstep]⟩

/-- A run that ends within the executions allowed ends as the last of them does, run by itself. -/
theorem run_eq_iff_leads {a : Word64} {n : Nat} {s : State} {r : RunResult} (hr : ∀ v, r ≠ .running v) :
    run a n s = r ↔ ∃ k < n, ∃ u, Leads a k s u ∧ run a 1 u = r := by
  induction n generalizing s with
  | zero => simpa [run_zero] using (hr s).symm
  | succ n ih =>
    rw [Nat.exists_lt_succ_left]
    rcases run_succ_cases a s with ⟨t, hgo, hrun⟩ | ⟨hstop, hrun⟩
    · have hfirst : ∀ u, Continues a s u ↔ u = t :=
        fun u => ⟨fun hu => hu.unique hgo, fun hu => hu ▸ hgo⟩
      rw [hrun, ih]
      simp [Leads, hfirst, hrun 0, run_zero, (hr t).symm]
    · rw [hrun]
      simp [Leads, hstop]

/-- A run of one execution that is `Done`. -/
theorem run_one_of_next {a : Word64} {s t : State} (h : step s = .next t) :
    run a 1 s = if t.rip = a then .ended t else .running t := by
  by_cases hend : t.rip = a
  · rw [run_end h hend, if_pos hend]
  · rw [run_continue h hend, run_zero, if_neg hend]

theorem run_one_ended {a : Word64} {u t : State} : run a 1 u = .ended t ↔ step u = .next t ∧ t.rip = a := by
  cases hstep : step u with
  | next v =>
    have hsame : v = t ∧ t.rip = a ↔ v = t ∧ v.rip = a := and_congr_right fun e => e ▸ Iff.rfl
    rw [run_one_of_next hstep, Host.Outcome.next.injEq, hsame]
    by_cases hend : v.rip = a <;> simp [hend]
  | fault e => simp [run_fault hstep]
  | refused r => simp [run_refused hstep]

theorem run_one_fault {a : Word64} {u v : State} {e : Fault} : run a 1 u = .fault e v ↔ u = v ∧ step u = .fault e := by
  cases hstep : step u with
  | next t => by_cases hend : t.rip = a <;> simp [run_one_of_next hstep, hend]
  | fault e' => simp [run_fault hstep, and_comm]
  | refused r => simp [run_refused hstep]

theorem run_one_refused {a : Word64} {u v : State} {r : Refusal} :
    run a 1 u = .refused r v ↔ u = v ∧ step u = .refused r := by
  cases hstep : step u with
  | next t => by_cases hend : t.rip = a <;> simp [run_one_of_next hstep, hend]
  | fault e => simp [run_fault hstep]
  | refused r' => simp [run_refused hstep, and_comm]

/-- Settles O51: the last execution is the one that reaches the end address. -/
theorem runEndsWhereTheEndAddressIsReached : Obligations.RunEndsWhereTheEndAddressIsReached := by
  intro a n s t
  calc run a n s = .ended t
      ↔ ∃ k < n, ∃ u, Leads a k s u ∧ run a 1 u = .ended t := run_eq_iff_leads (by simp)
    _ ↔ ∃ k < n, (∃ u, Leads a k s u ∧ step u = .next t) ∧ t.rip = a := by
      simp only [run_one_ended, ← and_assoc, exists_and_right]
    _ ↔ _ := by
      simp only [leads_step_iff_sequence, ← exists_and_left, ← exists_and_right, and_assoc]

/-- Settles O52: the last execution is the one that is stopped, and the run ends in the state before it. -/
theorem runStopsAtTheFirstFaultOrRefusal : Obligations.RunStopsAtTheFirstFaultOrRefusal := by
  intro a n s u
  constructor
  · intro e
    rw [← exists_lt_leads_iff_sequence, run_eq_iff_leads (by simp)]
    simp [run_one_fault, and_left_comm (b := _ = u)]
  · intro r
    rw [← exists_lt_leads_iff_sequence, run_eq_iff_leads (by simp)]
    simp [run_one_refused, and_left_comm (b := _ = u)]

/-! ## The invariant at the end of a run -/

/-- The state a run is in when it ends. -/
def RunResult.state : RunResult → State
  | .ended s => s
  | .fault _ s => s
  | .refused _ s => s
  | .running s => s

/-- Each execution keeps the invariant, and a stop leaves the state as it was. -/
theorem State.Inv.run {a : Word64} {n : Nat} {s : State} (h : s.Inv) : (run a n s).state.Inv := by
  induction n generalizing s with
  | zero => exact h
  | succ n ih =>
    cases hstep : step s with
    | next t =>
      have ht : t.Inv := stepKeepsTheInvariant s t h hstep
      by_cases hend : t.rip = a
      · rw [run_end hstep hend]
        exact ht
      · rw [run_continue hstep hend]
        exact ih ht
    | fault e =>
      rw [run_fault hstep]
      exact h
    | refused r =>
      rw [run_refused hstep]
      exact h

/-- Settles O53: `State.Inv.run`, for each way a run ends. -/
theorem runKeepsTheInvariant : Obligations.RunKeepsTheInvariant := by
  intro a n s u h hrun
  have hstate : (run a n s).state = u := by
    rcases hrun with e | e | ⟨_, e⟩ | ⟨_, e⟩ <;> simp [e, RunResult.state]
  exact hstate ▸ h.run

end Sys2Proof.Machine

/-! PROOFS. The printed example encodings (spec/30_encoding.md section 6). -/

namespace Sys2Proof

/-- `decode_ok` is exact: the decoder answers a well-formed instruction of its mode just where that instruction's bytes
stand in front (R75). -/
theorem decode_ok_iff {mode : CodeMode} {bs rest : List Byte} {i : Instr} :
    decode mode bs = .ok (i, rest) ↔ bs = encode i ++ rest ∧ i.mode = mode ∧ i.wf = true := by
  refine ⟨decode_ok, ?_⟩
  rintro ⟨rfl, rfl, hwf⟩
  exact decode_encode hwf rest

/-- Settles O1: each row is the encoding of its well-formed instruction (`decode_ok_iff`). -/
theorem specExampleEncodingsDecode : Obligations.SpecExampleEncodingsDecode := by
  simp only [Obligations.SpecExampleEncodingsDecode, decode_ok_iff]
  decide

end Sys2Proof
